-- ==== Sys2Proof/Word.lean ====
section
/-! DEFINITION. The words of the part: bytes, blocks of capture memory, addresses, channel numbers, and vectors read and
written by a bounded index. A block of 64 bytes is one 512-bit number, little-endian (R151): its byte i is bits
8i to 8i + 7. -/

namespace Sys2Proof

abbrev Byte := BitVec 8

/-- A block of capture memory: 64 bytes. -/
abbrev Block := BitVec 512

/-- The byte mask of a write: bit i admits byte i (R160). -/
abbrev Mask := BitVec 64

/-- A 34-bit block address. -/
abbrev BlockAddr := BitVec 34

/-- Hit, event and record numbers and tags: 32 bits, wrapping (R151). -/
abbrev Num := BitVec 32

/-- An acoustic channel, 0 to 31. -/
abbrev Chan := Fin 32

variable {α : Type} {n : Nat}

/-- The entry of a table at an index. -/
def look (v : Vector α n) (i : Fin n) : α := v[i.val]

/-- The table with one entry replaced. -/
def put (v : Vector α n) (i : Fin n) (x : α) : Vector α n := v.set i.val x i.isLt

/-- The table whose entry i is f i. -/
def tabulate (f : Fin n → α) : Vector α n := ⟨⟨List.ofFn f⟩, by simp⟩

@[simp] theorem look_put_self (v : Vector α n) (i : Fin n) (x : α) : look (put v i x) i = x := by
  simp [look, put]

theorem look_put (v : Vector α n) (i j : Fin n) (x : α) :
    look (put v i x) j = if i = j then x else look v j := by
  simp [look, put, Vector.getElem_set, Fin.ext_iff]

@[simp] theorem look_put_of_ne (v : Vector α n) {i j : Fin n} (x : α) (h : i ≠ j) :
    look (put v i x) j = look v j := by
  simp [look_put, h]

@[simp] theorem look_tabulate (f : Fin n → α) (i : Fin n) : look (tabulate f) i = f i := by
  simp [look, tabulate]

/-- The acoustic channels in ascending order. -/
def allChans : List Chan := List.finRange 32

/-- A step taken by a saturating 16-bit counter (R1). -/
def satInc (x : Nat) : Nat := min (x + 1) 65535

/-- A sum kept by a saturating 16-bit counter (R1, R133). -/
def satAdd (x y : Nat) : Nat := min (x + y) 65535

end Sys2Proof
end

