-- ==== Sys2Proof/Config.lean ====
section
/-! DEFINITION. What the handbook leaves open. Each constant has no body, so nothing in Lean can evaluate it: whatever is
proved holds for every value it could have. -/

namespace Sys2Proof

/-- Which of two actions is taken first where the rules say "either may be taken first" and both fall into one step: the
n-th such choice. It decides R160 (the two upstream ports can both accept) and R53 (a check finishes at the horizon
advance that also takes arrivals). FREE VALUE, logs 5 and 6. -/
opaque Config.freeChoice : Nat → Bool

/-- What a 5-byte sample time field holds for a time that its format cannot carry (2^40 - 1 or more; R151 gives the
format, no rule gives a result). FREE VALUE, log 7. -/
opaque Config.unfitTime : Nat → BitVec 40

/-- Whether a read of several blocks that runs past the top of the 34-bit address space goes on at block 0.
FREE VALUE, log 8. -/
opaque Config.readWraps : Bool

end Sys2Proof
end

