-- ==== Sys2Proof/Syntax.lean ====
section
/-! DEFINITION. The commands of the part: one constructor for each row of the table of operations and events, with the
row's operands. -/

namespace Sys2Proof

/-- The two upstream ports (R160). -/
inductive Port where
  | acquisition
  | host
  deriving DecidableEq, Repr

/-- A write request: one block, with a byte mask (R160). -/
structure BlockWrite where
  addr : BlockAddr
  data : Block
  mask : Mask
  deriving DecidableEq, Repr

/-- The data and mask of a host-port write to a block of the control page that the row fixes (R153). -/
structure PageWrite where
  data : Block
  mask : Mask
  deriving DecidableEq, Repr

/-- A completion received on the memory port (R160). A DONE completion carries data lines; a read of n blocks takes the
first n of them, in ascending address, and a write takes none. -/
inductive Completion where
  | done (data : Vector Block 8)
  | failed
  deriving DecidableEq, Repr

/-- One sample taken by one channel's detector: its channel, the ring index of its block, its sample time and its signed
value. -/
structure SampleEvent where
  chan      : Chan
  ringIndex : Nat
  time      : Nat
  sample    : BitVec 16
  deriving DecidableEq, Repr

/-- The commands, in the order of the table. The row names what an input turns out to be; its operands are what the part
sees (log 10). The length of a read is len + 1 blocks, so that every length of 1 to 8 and no other can be written. -/
inductive Instr where
  | powerOn (straps : BitVec 16)
  | linkReset
  | linkResetRelease
  | acousticRingWrite (w : BlockWrite)
  | pressureRingWrite (w : BlockWrite)
  | hostRingWrite (w : BlockWrite)
  | forwardedWrite (p : Port) (w : BlockWrite)
  | readRequest (p : Port) (addr : BlockAddr) (len : Fin 8)
  | apply (w : PageWrite)
  | start (w : PageWrite)
  | stop (w : PageWrite)
  | trigger (w : PageWrite)
  | thaw (w : PageWrite)
  | check (w : PageWrite)
  | releaseOne (w : PageWrite)
  | releaseChannel (w : PageWrite)
  | releaseAll (w : PageWrite)
  | snapshotChannels (w : PageWrite)
  | snapshotPaths (w : PageWrite)
  | clear (w : PageWrite)
  | unknownCommand (w : PageWrite)
  | acknowledge (w : PageWrite)
  | memoryGrant
  | upstreamCompletion (r : Completion)
  | recordWriteCompletion (r : Completion)
  | answerWriteCompletion (r : Completion)
  | fetchReadCompletion (r : Completion)
  | snapshotWriteCompletion (r : Completion)
  | discardedCompletion (r : Completion)
  | placement (time : BitVec 32)
  | stallExpiry (time : BitVec 32)
  | pulseStrobeEnd
  | fireTimeout (e : SampleEvent)
  | normalEnd (e : SampleEvent)
  | guardEnd (e : SampleEvent)
  | cut (e : SampleEvent)
  | peakSettled (e : SampleEvent)
  | continuationEnd (e : SampleEvent)
  | freezingWrite (w : BlockWrite)
  | pressureFreeze (w : BlockWrite)
  deriving DecidableEq, Repr

end Sys2Proof
end

