-- ==== Sys2Proof/Machine/Operands.lean ====
section
/-! DEFINITION. Operand forms: the fields of a block (R151), samples (R1), and the command block (R153). -/

namespace Sys2Proof.Machine

/-- Byte i of a block. -/
def byteAt (b : Block) (i : Nat) : Byte := b.extractLsb' (8 * i) 8

/-- The unsigned little-endian field of n bytes at byte offset o (R151). -/
def field (b : Block) (o n : Nat) : Nat := (b.extractLsb' (8 * o) (8 * n)).toNat

/-- A one-byte yes-or-no field read by the qualifier: 0 is no, any other value yes (R151). -/
def yes (b : Block) (o : Nat) : Bool := byteAt b o != 0

/-- The block that holds v in the field of n bytes at byte offset o and 0 elsewhere; fields are joined by `|||`, so
every byte that holds no field is written 0 (R151). -/
def putField (o n : Nat) (v : Nat) : Block := (BitVec.ofNat (8 * n) v).setWidth 512 <<< (8 * o)

/-- A block built from its fields. -/
def joinFields (fs : List Block) : Block := fs.foldl (· ||| ·) 0

/-- The data of a write with every byte that the mask excludes taken as 0 (R153). -/
def maskedData (data : Block) (mask : Mask) : Block :=
  joinFields ((List.range 64).map fun i => if mask.getLsbD i then putField i 1 (byteAt data i).toNat else 0)

/-- Every byte in the mask: the mask of the qualifier's own writes (R168). -/
def fullMask : Mask := BitVec.allOnes 64

/-- Sample i of a block, 0 to 31. -/
def sampleAt (b : Block) (i : Nat) : BitVec 16 := b.extractLsb' (16 * i) 16

/-- The 32 samples of a block, in order. -/
def samplesOf (b : Block) : List (BitVec 16) := (List.range 32).map (sampleAt b)

/-- The magnitude of an acoustic sample: its absolute value, with -32768 taken as 32767 (R1). -/
def magnitude (x : BitVec 16) : Nat := min x.toInt.natAbs 32767

/-- The square of a signed sample (R34). -/
def square (x : BitVec 16) : Nat := x.toInt.natAbs * x.toInt.natAbs

/-- The mean magnitude of a block (R26). -/
def meanMagnitude (b : Block) : Nat := ((samplesOf b).map magnitude).sum / 32

/-- The mean of a pressure block: unsigned samples, truncated (R91 step 1). -/
def pressureMean (b : Block) : Nat := ((samplesOf b).map BitVec.toNat).sum / 32

/-- The command write as the command unit reads it: excluded bytes are 0 (R173). -/
def pageData (w : PageWrite) : Block := maskedData w.data w.mask

/-- Tag of a command block (R153). -/
def commandTag (b : Block) : Num := b.extractLsb' 0 32

/-- Command code of a command block (R153). -/
def commandCode (b : Block) : Byte := byteAt b 4

/-- The commands by their codes (R152). -/
inductive CommandKind where
  | apply | start | stop | trigger | thaw | check | release | snapshot | clear
  | unknown
  deriving DecidableEq, Repr

def commandKind (code : Byte) : CommandKind :=
  match code.toNat with
  | 1 => .apply
  | 2 => .start
  | 3 => .stop
  | 4 => .trigger
  | 5 => .thaw
  | 6 => .check
  | 7 => .release
  | 8 => .snapshot
  | 9 => .clear
  | _ => .unknown

/-- APPLY: the "with path table" field. -/
def applyWithPaths (b : Block) : Bool := yes b 5

/-- CHECK: source channel, listen window, update flag. -/
def checkSource (b : Block) : Nat := field b 5 1
def checkWindow (b : Block) : Nat := field b 6 2
def checkUpdate (b : Block) : Bool := yes b 8

/-- RELEASE: scope, hold number, channel, hit number. -/
def releaseScope (b : Block) : Nat := field b 5 1
def releaseHoldNumber (b : Block) : Nat := field b 6 1
def releaseChan (b : Block) : Nat := field b 7 1
def releaseHit (b : Block) : Num := b.extractLsb' 64 32

/-- SNAPSHOT: target. -/
def snapshotTarget (b : Block) : Nat := field b 5 1

/-- The channel a number names, when it names one. -/
def chanOf (n : Nat) : Option Chan := if h : n < 32 then some ⟨n, h⟩ else none

/-- The set of channels that satisfy a test, as a set-of-channels field (R151). -/
def chanSet (p : Chan → Bool) : BitVec 32 :=
  allChans.foldl (fun acc c => if p c then acc ||| (1#32 <<< c.val) else acc) 0

end Sys2Proof.Machine
end

