-- ==== Sys2Proof/WellFormed.lean ====
section
/-! DEFINITION. Which terms of Instr are commands that their row names. A command row's block 0 write carries the row's
command code (and scope or target); a sample event lies in the ranges of a sample time and of a ring index. The machine
itself decides by the data, so an ill-formed term still has a meaning (log 10). A RELEASE with another scope and a
SNAPSHOT with another target have no row of their own; the machine refuses them INVALID_FIELD wherever they stand (log 29). -/

namespace Sys2Proof

open Machine

/-- The block 0 write carries a command of this kind. -/
def PageWrite.isKind (w : PageWrite) (k : CommandKind) : Bool := commandKind (commandCode (pageData w)) == k

/-- A sample event within the formats of R151: a sample time below 2^40 - 1 and a ring index below 2^20. -/
def SampleEvent.inRange (e : SampleEvent) : Bool := decide (e.time < 2 ^ 40 - 1) && decide (e.ringIndex < 2 ^ 20)

/-- The term is a command of the row its constructor names, as far as the operands alone can say. -/
def Instr.wellFormed : Instr → Bool
  | .powerOn _ => true
  | .linkReset => true
  | .linkResetRelease => true
  | .acousticRingWrite _ => true
  | .pressureRingWrite _ => true
  | .hostRingWrite _ => true
  | .forwardedWrite _ _ => true
  | .readRequest _ _ _ => true
  | .apply w => w.isKind .apply
  | .start w => w.isKind .start
  | .stop w => w.isKind .stop
  | .trigger w => w.isKind .trigger
  | .thaw w => w.isKind .thaw
  | .check w => w.isKind .check
  | .releaseOne w => w.isKind .release && releaseScope (pageData w) == 1
  | .releaseChannel w => w.isKind .release && releaseScope (pageData w) == 2
  | .releaseAll w => w.isKind .release && releaseScope (pageData w) == 3
  | .snapshotChannels w => w.isKind .snapshot && snapshotTarget (pageData w) == 1
  | .snapshotPaths w => w.isKind .snapshot && snapshotTarget (pageData w) == 2
  | .clear w => w.isKind .clear
  | .unknownCommand w => w.isKind .unknown
  | .acknowledge _ => true
  | .memoryGrant => true
  | .upstreamCompletion _ => true
  | .recordWriteCompletion _ => true
  | .answerWriteCompletion _ => true
  | .fetchReadCompletion _ => true
  | .snapshotWriteCompletion _ => true
  | .discardedCompletion _ => true
  | .placement _ => true
  | .stallExpiry _ => true
  | .pulseStrobeEnd => true
  | .fireTimeout e => e.inRange
  | .normalEnd e => e.inRange
  | .guardEnd e => e.inRange
  | .cut e => e.inRange
  | .peakSettled e => e.inRange
  | .continuationEnd e => e.inRange
  | .freezingWrite _ => true
  | .pressureFreeze _ => true

end Sys2Proof
end

