-- ==== Sys2Proof/Machine/State.lean ====
section
/-! DEFINITION. The state of the part, block by block, as plain data, and its value right after power-on. Two views that
name one thing are stored once (log 25): stream time (32 times the stream block count), newest mean (the last of the
FIFO), reserved totals and holds in use (from the hold table), command state (from the running command and the answers
due), the region decode table (from the active layout and the strap), enabled causes (from the active settings), the
open or closed acquisition port (from the record writer's mode), the attention and halt lines. -/

namespace Sys2Proof.Machine

/-! ### Enumerated values -/

/-- Tracker state (R2). -/
inductive TrackerState where
  | idle | waiting | tracking
  deriving DecidableEq, Repr

inductive ThresholdMode where
  | fixed | floating
  deriving DecidableEq, Repr

/-- Hold mode of a channel's settings: NONE, ON_READ, ON_COMMAND. -/
inductive HoldMode where
  | noHolds | onRead | onCommand
  deriving DecidableEq, Repr

/-- Release mode of a hold (R70). -/
inductive ReleaseMode where
  | onRead | onCommand
  deriving DecidableEq, Repr

inductive RingPolicy where
  | shed | stall
  deriving DecidableEq, Repr

/-- What a trigger does while a coupling check runs. -/
inductive TriggerInCheck where
  | queue | abandon
  deriving DecidableEq, Repr

inductive RunState where
  | stopped | listening | postTrigger | frozen
  deriving DecidableEq, Repr

inductive Phase where
  | quiet | rising | falling | steady
  deriving DecidableEq, Repr

inductive Arming where
  | unarmed | armed | spent
  deriving DecidableEq, Repr

inductive TriggerSource where
  | pressure | command
  deriving DecidableEq, Repr

inductive HitEnd where
  | normal | cut | broken | withdrawn | checkCut
  deriving DecidableEq, Repr

/-- Why a hit has no hold (R31, R44). -/
inductive NoHold where
  | noMode | frozen | limit | table | released
  deriving DecidableEq, Repr

inductive EventEnd where
  | window | forced | flushed
  deriving DecidableEq, Repr

inductive CheckState where
  | idle | firing | listening
  deriving DecidableEq, Repr

inductive CheckEnd where
  | complete | noSource | abandoned
  deriving DecidableEq, Repr

inductive AbandonCause where
  | stop | trigger
  deriving DecidableEq, Repr

inductive CheckResult where
  | source | valid | noPulse | noisy | stalled | disabled | notMeasured
  deriving DecidableEq, Repr

inductive FreezeEnd where
  | complete | cancelled
  deriving DecidableEq, Repr

/-- Freeze state of a ring (R101). -/
inductive FreezeState where
  | none | counting | atWrite | disabled | stalled | atCount | withAcoustic | notFrozen | noRing
  deriving DecidableEq, Repr

inductive FaultKind where
  | skip | rewrite | partialWrite | stalled | downstream | foreign
  deriving DecidableEq, Repr

inductive LossReason where
  | sheddingEnded | stop
  deriving DecidableEq, Repr

inductive AnswerResult where
  | done | busy | unknown | aborted | notApplied | wrongState | pending | layoutLocked | settingsChanged | fetchFailed
  | invalidSettings | invalidField | sourceUnavailable
  deriving DecidableEq, Repr

inductive TriggerOutcome where
  | taken | queued | extra
  deriving DecidableEq, Repr

inductive SnapshotTarget where
  | channels | paths
  deriving DecidableEq, Repr

inductive SettingsTable where
  | global | layout | channel
  deriving DecidableEq, Repr

/-- The eight causes (R185). -/
inductive Cause where
  | record | done | refused | trigger | frozen | check | fault | loss
  deriving DecidableEq, Repr

/-! ### Settings (R156) -/

structure GlobalSettings where
  policy         : RingPolicy
  triggerInCheck : TriggerInCheck
  minMembers     : Nat
  window         : Nat
  tenure         : Nat
  enabledCauses  : Byte
  stallLimit     : Nat
  attentionMark  : Nat
  resumeMark     : Nat
  lagLimit       : Nat
  slack          : Nat
  armLevel       : Nat
  burstDrop      : Nat
  riseStep       : Nat
  fallStep       : Nat
  belowPeakTol   : Nat
  postTrigger    : Nat
  postTriggerP   : Nat
  deriving DecidableEq, Repr

/-- A layout entry: base block address as read (5 bytes), size as a power of two, valid. -/
structure LayoutEntry where
  base  : Nat
  log   : Nat
  valid : Bool
  deriving DecidableEq, Repr

structure ChannelSettings where
  enabled   : Bool
  mode      : ThresholdMode
  threshold : Nat
  margin    : Nat
  preBlocks : Nat
  holdMode  : HoldMode
  peakWin   : Nat
  closeWin  : Nat
  guardLen  : Nat
  maxLen    : Nat
  deriving DecidableEq, Repr

/-- The settings that an APPLY activates whole. Layout entries 0 to 31 are the acoustic rings, 32 the pressure ring, 33
the record ring. -/
structure Settings where
  global   : GlobalSettings
  layout   : Vector LayoutEntry 34
  channels : Vector ChannelSettings 32
  deriving DecidableEq, Repr

/-! ### Stream trackers (R2, R3) -/

structure Tracker where
  state    : TrackerState
  origin   : Option Nat
  expected : Nat
  count    : Nat
  stalled  : Bool
  frozen   : Bool
  absorbed : Nat
  faults   : Nat
  deriving DecidableEq, Repr

structure PressureTracker where
  state    : TrackerState
  origin   : Option Nat
  expected : Nat
  count    : Nat
  frozen   : Bool
  deriving DecidableEq, Repr

structure Streams where
  chan     : Vector Tracker 32
  pressure : PressureTracker
  lead     : Nat
  horizon  : Nat
  deriving DecidableEq, Repr

/-! ### Hit detectors (R23, R29, R116) -/

/-- Flags of a hit (R47). -/
structure HitFlags where
  continuation   : Bool
  notGrouped     : Bool
  belowPeak      : Bool
  afterTrigger   : Bool
  frozenChannel  : Bool
  frozenDuring   : Bool
  stalledChannel : Bool
  releasedEarly  : Bool
  unsettled      : Bool
  deriving DecidableEq, Repr

/-- The hold of a hit: a hold number, or the reason for having none. -/
inductive HitHold where
  | held (h : Fin 64)
  | noHold (r : NoHold)
  deriving DecidableEq, Repr

/-- The hit context (R29). -/
structure HitContext where
  number       : Num
  chan         : Chan
  arrival      : Nat
  openIndex    : Nat
  threshold    : Nat
  peakWin      : Nat
  closeWin     : Nat
  guardLen     : Nat
  maxLen       : Nat
  preBlocks    : Nat
  holdMode     : HoldMode
  mean         : Nat
  phase        : Phase
  flags        : HitFlags
  hold         : HitHold
  peak         : Nat
  peakTime     : Nat
  settled      : Bool
  counts       : Nat
  countsToPeak : Nat
  lastCrossing : Nat
  energy       : Nat
  snapshot     : Nat
  deriving DecidableEq, Repr

/-- The check context (R116). -/
structure CheckContext where
  retained : List Nat
  overflow : Bool
  peak     : Nat
  deriving DecidableEq, Repr

/-- Detector state, each with what is present in it alone (R23): the continuation end in ARMED, the hit context in OPEN,
the guard end in GUARD, the check context in CHECK. -/
inductive DetectorState where
  | idle
  | armed (contEnd : Option Nat)
  | opened (hit : HitContext)
  | guard (endTime : Nat)
  | check (ctx : CheckContext)
  deriving DecidableEq, Repr

structure Detector where
  state     : DetectorState
  threshold : Nat
  noise     : Nat
  prev      : Nat
  deriving DecidableEq, Repr

structure Hits where
  det     : Vector Detector 32
  nextHit : Num
  deriving DecidableEq, Repr

/-! ### Arrival sorter and event grouper (R49, R53, R55) -/

structure Arrival where
  chan : Chan
  time : Nat
  hit  : Num
  deriving DecidableEq, Repr

structure Member where
  chan    : Chan
  offset  : Nat
  stalled : Bool
  deriving DecidableEq, Repr

structure Event where
  number       : Num
  first        : Chan
  firstHit     : Num
  t0           : Nat
  windowEnd    : Nat
  slack        : Nat
  minMembers   : Nat
  members      : List Member
  belowPeak    : Bool
  afterTrigger : Bool
  mean         : Nat
  phase        : Phase
  deriving DecidableEq, Repr

/-- The path table's value NEVER. -/
def never : BitVec 12 := 4095

structure Grouper where
  arrivals  : List Arrival
  lastTaken : Option Nat
  refused   : Nat
  late      : Nat
  sparse    : Nat
  forced    : Nat
  path      : Vector (Vector (BitVec 12) 32) 32
  events    : Vector (Option Event) 8
  nextEvent : Num
  deriving DecidableEq, Repr

/-! ### Write guard (R70, R101) -/

inductive HoldState where
  | pending | held
  deriving DecidableEq, Repr

/-- A PENDING or HELD entry of the hold table. -/
structure Hold where
  state    : HoldState
  chan     : Chan
  first    : Nat
  count    : Nat
  capped   : Bool
  release  : ReleaseMode
  reserved : Nat
  absorbed : Nat
  owner    : Num
  deriving DecidableEq, Repr

/-- Freeze state and freeze point of a ring. -/
structure RingFreeze where
  state : FreezeState
  point : Option Nat
  deriving DecidableEq, Repr

/-- The hold table (`none` is FREE), last forwarded indices and freeze states. -/
structure Guard where
  holds   : Vector (Option Hold) 64
  lastFwd : Vector (Option Nat) 32
  freeze  : Vector RingFreeze 32
  pLastFwd : Option Nat
  pFreeze  : RingFreeze
  deriving DecidableEq, Repr

/-! ### Pressure monitor (R90) -/

structure PostTrigger where
  source       : TriggerSource
  freezeTime   : Nat
  tp           : Nat
  freezeNumber : Nat
  extra        : Nat
  deriving DecidableEq, Repr

/-- The pressure monitor. `peakTol` is the below-peak tolerance that governs the newest mean: the one in force when that
mean was formed (R111, log 39). -/
structure Monitor where
  fifo    : List Nat
  pmax    : Nat
  peakTol : Nat
  phase   : Phase
  arming  : Arming
  tt      : Nat
  post    : Option PostTrigger
  deriving DecidableEq, Repr

/-! ### Coupling check unit (R115) -/

structure QueuedTrigger where
  source : TriggerSource
  extra  : Nat
  deriving DecidableEq, Repr

structure CheckUnit where
  state    : CheckState
  source   : Chan
  window   : Nat
  update   : Bool
  fireTime : Nat
  t0       : Option Nat
  disabled : Vector Bool 32
  stalled  : Vector Bool 32
  queued   : Option QueuedTrigger
  select   : BitVec 5
  strobe   : Bool
  deriving DecidableEq, Repr

/-! ### Records (R46, R69, R94, R112, R113, R127, R132, R146) -/

structure HitRecord where
  number       : Num
  chan         : Chan
  reason       : HitEnd
  flags        : HitFlags
  arrival      : Nat
  closing      : Nat
  duration     : Nat
  rise         : Nat
  peak         : Nat
  counts       : Nat
  countsToPeak : Nat
  energy       : Nat
  threshold    : Nat
  openIndex    : Nat
  hold         : HitHold
  range        : Option (Nat × Nat)
  mean         : Nat
  phase        : Phase
  deriving DecidableEq, Repr

structure EventRecord where
  event   : Event
  reason  : EventEnd
  horizon : Nat
  refused : Nat
  late    : Nat
  forced  : Nat
  sparse  : Nat
  deriving DecidableEq, Repr

structure PhaseRecord where
  previous : Phase
  next     : Phase
  number   : Nat
  mean     : Nat
  compared : Option Nat
  window   : Nat
  pmax     : Nat
  arming   : Arming
  horizon  : Nat
  run      : RunState
  deriving DecidableEq, Repr

structure TriggerRecord where
  source         : TriggerSource
  queued         : Bool
  checkAbandoned : Bool
  tt             : Nat
  lead           : Nat
  freezeTime     : Nat
  d              : Nat
  dp             : Nat
  tp             : Nat
  mean           : Nat
  pmax           : Nat
  phase          : Phase
  frozenAtOnce   : BitVec 32
  queuedExtra    : Nat
  deriving DecidableEq, Repr

structure FreezeRecord where
  reason  : FreezeEnd
  source  : TriggerSource
  tt      : Nat
  f       : Nat
  horizon : Nat
  extra   : Nat
  rings   : Vector RingFreeze 32
  pRing   : RingFreeze
  pCount  : Nat
  deriving DecidableEq, Repr

structure CheckEntry where
  result   : CheckResult
  delay    : Option Nat
  peak     : Nat
  retained : Nat
  overflow : Bool
  deriving DecidableEq, Repr

structure CheckRecord where
  reason        : CheckEnd
  cause         : Option AbandonCause
  source        : Chan
  window        : Nat
  update        : Bool
  pathUpdated   : Bool
  triggerQueued : Bool
  fireTime      : Nat
  t0            : Option Nat
  horizon       : Nat
  entries       : Vector CheckEntry 32
  deriving DecidableEq, Repr

/-- Where a fault lies: an acoustic channel, the pressure ring, or neither (FOREIGN). -/
inductive FaultPlace where
  | acoustic (c : Chan)
  | pressure
  | elsewhere
  deriving DecidableEq, Repr

/-- A fault as the raising rule names it (R13, R164, R167). -/
structure FaultInfo where
  kind     : FaultKind
  place    : FaultPlace
  index    : Option Nat
  expected : Option Nat
  distance : Option Nat
  time     : Option Nat
  lead     : Option Nat
  addr     : Option BlockAddr
  deriving DecidableEq, Repr

structure FaultRecord where
  first        : FaultInfo
  horizon      : Nat
  furtherCount : Nat
  furtherKinds : Byte
  furtherChans : BitVec 32
  pressureMark : Bool
  deriving DecidableEq, Repr

/-- The loss counters, with the first-loss horizon and record number (R146). -/
structure Loss where
  hits      : Vector Nat 32
  events    : Nat
  phases    : Nat
  onArrival : Nat
  stalls    : Nat
  expiries  : Nat
  first     : Option (Nat × Num)
  deriving DecidableEq, Repr

structure LossRecord where
  reason  : LossReason
  loss    : Loss
  horizon : Nat
  deriving DecidableEq, Repr

inductive Record where
  | hit (r : HitRecord)
  | event (r : EventRecord)
  | phase (r : PhaseRecord)
  | trigger (r : TriggerRecord)
  | freeze (r : FreezeRecord)
  | check (r : CheckRecord)
  | fault (r : FaultRecord)
  | loss (r : LossRecord)
  deriving DecidableEq, Repr

/-! ### Record writer (R129) -/

/-- Record writer mode; STALLING with its stall start and the stall limit in force. -/
inductive WriterMode where
  | placing
  | shedding
  | stalling (start : BitVec 32) (limit : Nat)
  deriving DecidableEq, Repr

/-- A placement in progress (R138): the record and its number, the produce index at which it began, its PAD length, and
how many of its writes have been granted and completed. -/
structure Placement where
  record    : Record
  number    : Num
  start     : Nat
  pad       : Nat
  granted   : Nat
  completed : Nat
  deriving DecidableEq, Repr

structure Writer where
  queue           : List Record
  produce         : Nat
  drain           : Nat
  occupancy       : Nat
  nextNumber      : Num
  mode            : WriterMode
  placement       : Option Placement
  loss            : Loss
  halted          : Bool
  unplacedTrigger : Bool
  unplacedFreeze  : Bool
  unplacedCheck   : Bool
  deriving DecidableEq, Repr

/-! ### Command unit, answer and status writer, fetch and snapshot engine (R172) -/

/-- What an answer carries besides its result (R154). -/
inductive AnswerDetail where
  | plain
  | invalid (table : SettingsTable) (entry : Nat) (offset : Nat)
  | trigger (outcome : TriggerOutcome) (extra : Nat)
  | thaw (extra : Nat)
  | release (holds : Nat) (absorbed : Nat)
  | check (fireTime : Nat)
  deriving DecidableEq, Repr

/-- An answer; the result is absent only in the answer of all fields 0 that power-on and link reset leave (R187). -/
structure Answer where
  tag    : Num
  code   : Byte
  result : Option AnswerResult
  detail : AnswerDetail
  deriving DecidableEq, Repr

/-- The refusal word: tag, code and whether a refusal has been recorded (its result BUSY) since reset. -/
structure RefusalWord where
  tag  : Num
  code : Byte
  busy : Bool
  deriving DecidableEq, Repr

/-- Fetch progress (R178): whether the first read may be presented, the reads granted and completed, whether one
FAILED, and the blocks read so far in ascending order from block 12. -/
structure Fetch where
  started   : Bool
  granted   : Nat
  completed : Nat
  failed    : Bool
  data      : List Block
  deriving DecidableEq, Repr

inductive Running where
  | apply (tag : Num) (withPaths : Bool) (fetch : Fetch)
  | snapshot (tag : Num) (target : SnapshotTarget) (granted : Nat) (completed : Nat)
  deriving DecidableEq, Repr

structure CommandUnit where
  running     : Option Running
  run         : RunState
  settings    : Option Settings
  applied     : Bool
  disturbed   : Bool
  pending     : Byte
  due         : List Answer
  latest      : Answer
  refusal     : RefusalWord
  refusalMark : Bool
  dirty       : Bool
  awaiting    : Bool
  deriving DecidableEq, Repr

/-! ### The blocks behind the link, together -/

/-- Every block of the part but its link ports, memory arbiter and pins. `choices` is the model's own field: how many
free choices have been made (log 31). -/
structure Core where
  streams : Streams
  hits    : Hits
  group   : Grouper
  guard   : Guard
  monitor : Monitor
  check   : CheckUnit
  writer  : Writer
  unit    : CommandUnit
  choices : Nat
  deriving DecidableEq, Repr

/-! ### Link ports and memory arbiter (R160, R162, R169) -/

/-- A request on the link; a read covers len + 1 blocks. -/
inductive Request where
  | read (addr : BlockAddr) (len : Fin 8)
  | write (w : BlockWrite)
  deriving DecidableEq, Repr

/-- The class of one block with its ring index or page block (R162, R163). -/
inductive Place where
  | acoustic (c : Chan) (n : Nat)
  | pressure (n : Nat)
  | record (n : Nat)
  | control (b : Nat)
  | plain
  deriving DecidableEq, Repr

/-- A completion returned to an originator: DONE with the data of every block read, or FAILED. -/
inductive Returned where
  | done (data : List Block)
  | failed
  deriving DecidableEq, Repr

/-- The condition of an accepted entry (R160). -/
inductive Condition where
  | waiting
  | issued
  | complete (r : Returned)
  deriving DecidableEq, Repr

/-- An accepted request, with the classes of its blocks as decoded at acceptance; `startsFetch` marks the write of the
APPLY command that runs (R178). -/
structure Accepted where
  request     : Request
  places      : List Place
  startsFetch : Bool
  cond        : Condition
  deriving DecidableEq, Repr

/-- An upstream port: the requests standing on its link, its accepted queue, and the completions it has returned. -/
structure PortState where
  link     : List Request
  accepted : List Accepted
  returned : List Returned
  deriving DecidableEq, Repr

/-- A write of the answer and status writer: block 2, carrying a due answer or not, or block 3 (R184). -/
inductive AnswerWrite where
  | answerBlock (carriesDue : Bool)
  | statusBlock
  deriving DecidableEq, Repr

/-- Who owns an issued request (R160). -/
inductive Owner where
  | port (p : Port)
  | answer (w : AnswerWrite)
  | fetch
  | snapshot
  | record
  deriving DecidableEq, Repr

structure Issued where
  owner     : Owner
  request   : Request
  discarded : Bool
  deriving DecidableEq, Repr

/-- The internal requesters, in the order in which a round grants them (R170). -/
inductive Requester where
  | answer | engine | record
  deriving DecidableEq, Repr

/-- Which block the answer and status writer presents. -/
inductive PageReply where
  | block2 | block3
  deriving DecidableEq, Repr

/-- The memory arbiter: its two values, the round under way, and the requests presented to it. `abandoned` is a write of a
placement that an activation abandoned while the write stood presented; the record writer presents nothing else while it
stands (R149, R168, R171). -/
structure Arbiter where
  lastGrant : Port
  waitCount : Nat
  round     : List Requester
  answer    : Option PageReply
  engine    : Bool
  record    : Bool
  abandoned : Option BlockWrite
  deriving DecidableEq, Repr

/-- The state of the part, with the queue of the commands that wait to be taken. -/
structure State where
  strap     : BitVec 16
  linkReset : Bool
  timeRef   : BitVec 32
  acq       : PortState
  host      : PortState
  issued    : List Issued
  arb       : Arbiter
  core      : Core
  pending   : List Instr
  deriving DecidableEq, Repr

/-! ### Stops -/

/-- A fault of the machine. There is none: the spec gives every input of the part an effect and names no condition that
stops it, so no meaning raises one. What the spec calls a fault is a record, not a stop. Safe. -/
inductive Fault where
  deriving DecidableEq, Repr

/-- A refusal of the machine. -/
inductive Refusal where
  /-- Raised by an arm of exec that has no meaning yet; no arm is left so. Safe. -/
  | notModelled (mnemonic : String)
  deriving DecidableEq, Repr

/-! ### Power-on -/

def Tracker.reset : Tracker :=
  { state := .idle, origin := none, expected := 0, count := 0, stalled := false, frozen := false, absorbed := 0,
    faults := 0 }

def PressureTracker.reset : PressureTracker :=
  { state := .idle, origin := none, expected := 0, count := 0, frozen := false }

/-- CLEAR, link reset and power-on values of the trackers (R22). -/
def Streams.reset : Streams :=
  { chan := Vector.replicate 32 Tracker.reset, pressure := PressureTracker.reset, lead := 0, horizon := 0 }

/-- Detectors after CLEAR, link reset and power-on (R45). -/
def Hits.reset : Hits :=
  { det := Vector.replicate 32 { state := .idle, threshold := 0, noise := 0, prev := 0 }, nextHit := 0 }

/-- Power-on value of the path table: all NEVER (R53). -/
def pathReset : Vector (Vector (BitVec 12) 32) 32 := Vector.replicate 32 (Vector.replicate 32 never)

/-- Sorter and grouper after CLEAR, link reset and power-on, with the path table given (R66). -/
def Grouper.reset (path : Vector (Vector (BitVec 12) 32) 32) : Grouper :=
  { arrivals := [], lastTaken := none, refused := 0, late := 0, sparse := 0, forced := 0, path := path,
    events := Vector.replicate 8 none, nextEvent := 0 }

def RingFreeze.reset : RingFreeze := { state := .none, point := none }

/-- Write guard after CLEAR, link reset and power-on (R89, R114). -/
def Guard.reset : Guard :=
  { holds := Vector.replicate 64 none, lastFwd := Vector.replicate 32 none,
    freeze := Vector.replicate 32 RingFreeze.reset, pLastFwd := none, pFreeze := RingFreeze.reset }

/-- Pressure monitor after START, CLEAR, link reset and power-on (R114). -/
def Monitor.reset : Monitor :=
  { fifo := [], pmax := 0, peakTol := 0, phase := .quiet, arming := .unarmed, tt := 0, post := none }

/-- Check unit with no check running (R128), driving the select value given. DESIGN CHOICE (log 34): the fields with no
meaning in IDLE are 0, clear or absent. -/
def CheckUnit.reset (select : BitVec 5) : CheckUnit :=
  { state := .idle, source := 0, window := 0, update := false, fireTime := 0, t0 := none,
    disabled := Vector.replicate 32 false, stalled := Vector.replicate 32 false, queued := none, select := select,
    strobe := false }

def Loss.zero : Loss :=
  { hits := Vector.replicate 32 0, events := 0, phases := 0, onArrival := 0, stalls := 0, expiries := 0,
    first := none }

/-- Record writer after CLEAR, link reset and power-on (R150). -/
def Writer.reset : Writer :=
  { queue := [], produce := 0, drain := 0, occupancy := 0, nextNumber := 0, mode := .placing, placement := none,
    loss := Loss.zero, halted := false, unplacedTrigger := false, unplacedFreeze := false, unplacedCheck := false }

/-- Command unit after power-on and link reset (R187). -/
def CommandUnit.reset : CommandUnit :=
  { running := none, run := .stopped, settings := none, applied := false, disturbed := false, pending := 0, due := [],
    latest := { tag := 0, code := 0, result := none, detail := .plain },
    refusal := { tag := 0, code := 0, busy := false }, refusalMark := false, dirty := true, awaiting := false }

/-- The blocks behind the link after power-on (path all NEVER) or link reset (path kept). The counter of free choices is
kept: it is not the part's. -/
def Core.reset (path : Vector (Vector (BitVec 12) 32) 32) (choices : Nat) : Core :=
  { streams := Streams.reset, hits := Hits.reset, group := Grouper.reset path, guard := Guard.reset,
    monitor := Monitor.reset, check := CheckUnit.reset 0, writer := Writer.reset, unit := CommandUnit.reset,
    choices := choices }

/-- Memory arbiter after power-on and link reset (R169, R171). -/
def Arbiter.reset : Arbiter :=
  { lastGrant := .host, waitCount := 0, round := [], answer := none, engine := false, record := false,
    abandoned := none }

def PortState.reset : PortState := { link := [], accepted := [], returned := [] }

/-- The part right after power-on, with the strap lines given (R171, R187). DESIGN CHOICE (log 24): the link reset line
is deasserted; (log 2): the time reference reads 0. -/
def State.poweredOn (straps : BitVec 16) : State :=
  { strap := straps, linkReset := false, timeRef := 0, acq := PortState.reset, host := PortState.reset, issued := [],
    arb := Arbiter.reset, core := Core.reset pathReset 0, pending := [] }

/-- The machine right after reset: power-on. DESIGN CHOICE (log 1): the strap lines read 0. -/
def State.reset : State := State.poweredOn 0

end Sys2Proof.Machine
end

