-- ==== Sys2Proof/Machine/Ops.lean ====
section
/-! DEFINITION. Named operations over the state: replacing one block's state, reading the active settings, and decoding an
address. The part has no exception entry; what its causes and lines do stands in Flags.lean. -/

namespace Sys2Proof.Machine

/-! ### Replacing the state of one block -/

def Core.setStreams (k : Core) (x : Streams) : Core := { k with streams := x }
def Core.setHits (k : Core) (x : Hits) : Core := { k with hits := x }
def Core.setGroup (k : Core) (x : Grouper) : Core := { k with group := x }
def Core.setGuard (k : Core) (x : Guard) : Core := { k with guard := x }
def Core.setMonitor (k : Core) (x : Monitor) : Core := { k with monitor := x }
def Core.setCheck (k : Core) (x : CheckUnit) : Core := { k with check := x }
def Core.setWriter (k : Core) (x : Writer) : Core := { k with writer := x }
def Core.setUnit (k : Core) (x : CommandUnit) : Core := { k with unit := x }
def Core.setChoices (k : Core) (x : Nat) : Core := { k with choices := x }

def State.setCore (s : State) (x : Core) : State := { s with core := x }
def State.setIssued (s : State) (x : List Issued) : State := { s with issued := x }
def State.setArb (s : State) (x : Arbiter) : State := { s with arb := x }
def State.setTimeRef (s : State) (x : BitVec 32) : State := { s with timeRef := x }
def State.setLinkReset (s : State) (x : Bool) : State := { s with linkReset := x }

/-- The state of an upstream port. -/
def State.port (s : State) : Port → PortState
  | .acquisition => s.acq
  | .host => s.host

def State.setPort (s : State) (p : Port) (x : PortState) : State :=
  match p with
  | .acquisition => { s with acq := x }
  | .host => { s with host := x }

/-! ### Entries of the per-channel tables -/

def Core.tracker (k : Core) (c : Chan) : Tracker := look k.streams.chan c

def Core.setTracker (k : Core) (c : Chan) (t : Tracker) : Core :=
  k.setStreams { k.streams with chan := put k.streams.chan c t }

def Core.detector (k : Core) (c : Chan) : Detector := look k.hits.det c

def Core.setDetector (k : Core) (c : Chan) (d : Detector) : Core :=
  k.setHits { k.hits with det := put k.hits.det c d }

/-- A channel's stream time: 32 times its stream block count (R2). -/
def Tracker.time (t : Tracker) : Nat := 32 * t.count

/-- Apply an operation to every acoustic channel in ascending order. -/
@[irreducible] def forChans (f : Core → Chan → Core) (k : Core) : Core := allChans.foldl f k

/-! ### The active settings -/

/-- What is read while no settings are active: the tenure is 8 (R170) and no cause is enabled (R172). The other values
are never acted on, because without settings no run can start and no ring is valid (log 22). -/
def GlobalSettings.absent : GlobalSettings :=
  { policy := .shed, triggerInCheck := .queue, minMembers := 0, window := 0, tenure := 8, enabledCauses := 0,
    stallLimit := 0, attentionMark := 0, resumeMark := 0, lagLimit := 0, slack := 0, armLevel := 0, burstDrop := 0,
    riseStep := 0, fallStep := 0, belowPeakTol := 0, postTrigger := 0, postTriggerP := 0 }

def LayoutEntry.absent : LayoutEntry := { base := 0, log := 0, valid := false }

def ChannelSettings.absent : ChannelSettings :=
  { enabled := false, mode := .fixed, threshold := 0, margin := 0, preBlocks := 0, holdMode := .noHolds, peakWin := 0,
    closeWin := 0, guardLen := 0, maxLen := 0 }

def Core.global (k : Core) : GlobalSettings :=
  match k.unit.settings with
  | some st => st.global
  | none => GlobalSettings.absent

def Core.layoutEntry (k : Core) (i : Fin 34) : LayoutEntry :=
  match k.unit.settings with
  | some st => look st.layout i
  | none => LayoutEntry.absent

def Core.settingsOf (k : Core) (c : Chan) : ChannelSettings :=
  match k.unit.settings with
  | some st => look st.channels c
  | none => ChannelSettings.absent

def Core.enabled (k : Core) (c : Chan) : Bool := (k.settingsOf c).enabled

/-- The size of a region in blocks. -/
def LayoutEntry.size (e : LayoutEntry) : Nat := 2 ^ e.log

def ringEntryIndex (c : Chan) : Fin 34 := ⟨c.val, Nat.lt_of_lt_of_le c.isLt (by decide)⟩

/-- The layout entries of an acoustic ring, the pressure ring and the record ring. -/
def Core.ringEntry (k : Core) (c : Chan) : LayoutEntry := k.layoutEntry (ringEntryIndex c)
def Core.pressureEntry (k : Core) : LayoutEntry := k.layoutEntry 32
def Core.recordEntry (k : Core) : LayoutEntry := k.layoutEntry 33

/-- A channel has a ring when its layout entry is valid (R2). -/
def Core.hasRing (k : Core) (c : Chan) : Bool := (k.ringEntry c).valid

def Core.ringSize (k : Core) (c : Chan) : Nat := (k.ringEntry c).size

/-- A channel participates while it is enabled and not stalled (R14). -/
def Core.participates (k : Core) (c : Chan) : Bool := k.enabled c && !(k.tracker c).stalled

/-- The command state: BUSY while a command is running or an answer is due (R174). -/
def CommandUnit.busy (u : CommandUnit) : Bool := u.running.isSome || !u.due.isEmpty

/-! ### What the pressure monitor reports (R90, R95) -/

/-- The newest mean, absent until the first mean of the run. -/
def Monitor.newest (m : Monitor) : Option Nat := m.fifo.getLast?

/-- The newest mean, or 0 when it is absent. -/
def Monitor.mean (m : Monitor) : Nat := m.newest.getD 0

/-- The below-peak test (R95), with the tolerance that governs the newest mean: a new one waits for the next mean (R111,
log 39). -/
def Monitor.belowPeak (m : Monitor) : Bool :=
  match m.newest with
  | some x => decide (m.peakTol < m.pmax - x)
  | none => false

/-- The run state is POST_TRIGGER or FROZEN. -/
def Core.afterTrigger (k : Core) : Bool :=
  match k.unit.run with
  | .postTrigger | .frozen => true
  | .stopped | .listening => false

/-! ### Free choices -/

/-- The next free choice, and the state in which it has been made. -/
def Core.choose (k : Core) : Bool × Core := (Config.freeChoice k.choices, k.setChoices (k.choices + 1))

/-! ### The region decoder (R162, R163) -/

/-- Block address of the control page: strap value times 16384. -/
def State.pageBase (s : State) : Nat := s.strap.toNat * 16384

/-- Block address of a block of the control page. -/
def State.pageAddr (s : State) (b : Nat) : BlockAddr := BitVec.ofNat 34 (s.pageBase + b)

/-- The index of an address in a valid region. -/
def LayoutEntry.index (e : LayoutEntry) (addr : Nat) : Option Nat :=
  if e.valid ∧ e.base ≤ addr ∧ addr < e.base + e.size then some (addr - e.base) else none

/-- The acoustic ring that holds an address. -/
def Core.acousticPlace (k : Core) (addr : Nat) : Option Place :=
  allChans.findSome? fun c => ((k.ringEntry c).index addr).map (Place.acoustic c)

/-- The class of a block. The valid regions do not overlap (R162), so the order of the tests is free. -/
def State.place (s : State) (addr : Nat) : Place :=
  if s.pageBase ≤ addr ∧ addr < s.pageBase + 128 then .control (addr - s.pageBase)
  else
    match s.core.acousticPlace addr with
    | some p => p
    | none =>
      match s.core.pressureEntry.index addr with
      | some n => .pressure n
      | none =>
        match s.core.recordEntry.index addr with
        | some n => .record n
        | none => .plain

/-- The address of the i-th block of a read. Past the top of the address space it goes on at 0 or not (log 8). -/
def readBlockAddr (addr : BlockAddr) (i : Nat) : Nat :=
  let a := addr.toNat + i
  if a < 2 ^ 34 then a else if Config.readWraps then a - 2 ^ 34 else a

/-- The classes of the blocks of a request, as the decode table stands. -/
def State.placesOf (s : State) : Request → List Place
  | .read addr len => (List.range (len.val + 1)).map fun i => s.place (readBlockAddr addr i)
  | .write w => [s.place w.addr.toNat]

end Sys2Proof.Machine
end

