-- ==== Sys2Proof/Machine/Flags.lean ====
section
/-! DEFINITION. Causes, the status dirty mark, the run state, and the two output lines (R181, R184, R185, R186). -/

namespace Sys2Proof.Machine

/-- The bit of a cause in every set of causes (R152). -/
def Cause.bit : Cause → Byte
  | .record => 1
  | .done => 2
  | .refused => 4
  | .trigger => 8
  | .frozen => 16
  | .check => 32
  | .fault => 64
  | .loss => 128

/-- Mark the status dirty. -/
def Core.markDirty (k : Core) : Core := k.setUnit { k.unit with dirty := true }

/-- A new set of pending causes; each change of it marks the status dirty (R185). -/
def Core.setPending (k : Core) (p : Byte) : Core :=
  k.setUnit { k.unit with pending := p, dirty := k.unit.dirty || p != k.unit.pending }

/-- Raise a cause (R185). -/
def Core.raise (k : Core) (c : Cause) : Core := k.setPending (k.unit.pending ||| c.bit)

/-- Remove from the pending causes each cause whose bit is set (R185). -/
def Core.acknowledge (k : Core) (bits : Byte) : Core := k.setPending (k.unit.pending &&& ~~~bits)

/-- A new run state; each change marks the status dirty (R172). -/
def Core.setRun (k : Core) (r : RunState) : Core := k.setUnit { k.unit with run := r, dirty := true }

/-- The enabled causes: those of the global settings, none while no settings are active (R172). -/
def Core.enabledCauses (k : Core) : Byte := k.global.enabledCauses

/-- The attention line is asserted exactly when some cause is both pending and enabled (R186). -/
def State.attentionLine (s : State) : Bool := s.core.unit.pending &&& s.core.enabledCauses != 0

/-- The halt line is asserted exactly when the halted flag is set (R186). -/
def State.haltLine (s : State) : Bool := s.core.writer.halted

/-- The acquisition port is open unless the record writer is stalling (R144, R145, R161). -/
def Core.acquisitionOpen (k : Core) : Bool :=
  match k.writer.mode with
  | .stalling _ _ => false
  | .placing | .shedding => true

/-- The stalled-channel set of the status block. -/
def Core.stalledSet (k : Core) : BitVec 32 := chanSet fun c => (k.tracker c).stalled

/-- Append an answer to the answers due; the command state and the code shown change, so the status is dirty (R174). -/
def Core.formAnswer (k : Core) (a : Answer) : Core :=
  k.setUnit { k.unit with due := k.unit.due ++ [a], dirty := true }

end Sys2Proof.Machine
end

