-- ==== Sys2Proof/Machine/RecordWriter.lean ====
section
/-! DEFINITION. The record writer: the queue, shedding, stalling, placement, publication, drain and the halted flag
(R129 to R150). -/

namespace Sys2Proof.Machine

/-- The class of a record: HIT, EVENT and PHASE may be shed (R130). -/
def Record.sheddable : Record → Bool
  | .hit _ | .event _ | .phase _ => true
  | .trigger _ | .freeze _ | .check _ | .fault _ | .loss _ => false

/-- The span of an EVENT record by its member count (R67). -/
def eventSpan (members : Nat) : Nat := if members ≤ 4 then 1 else if members ≤ 18 then 2 else 3

/-- The span of a record in slots (R130). -/
def Record.span : Record → Nat
  | .hit _ => 1
  | .event r => eventSpan r.event.members.length
  | .phase _ => 1
  | .trigger _ => 1
  | .freeze _ => 3
  | .check _ => 3
  | .fault _ => 1
  | .loss _ => 2

/-! ### Loss counters (R133, R146) -/

/-- Set the first-loss fields if they are absent. -/
def Core.noteLoss (k : Core) (l : Loss) : Loss :=
  { l with first := l.first <|> some (k.streams.horizon, k.writer.nextNumber) }

/-- Count one discarded record by its kind. -/
def Loss.countKind (l : Loss) : Record → Loss
  | .hit r => { l with hits := put l.hits r.chan (satInc (look l.hits r.chan)) }
  | .event _ => { l with events := satInc l.events }
  | .phase _ => { l with phases := satInc l.phases }
  | .trigger _ | .freeze _ | .check _ | .fault _ | .loss _ => l

/-- Discard a record, counted by kind and, if it was discarded on arrival, there too (R142, R146). -/
def Core.discard (k : Core) (r : Record) (onArrival : Bool) : Core :=
  let l := (k.noteLoss k.writer.loss).countKind r
  k.setWriter { k.writer with loss := if onArrival then { l with onArrival := satInc l.onArrival } else l }

/-- Some counter is not 0. -/
def Loss.counted (l : Loss) : Bool :=
  (allChans.any fun c => look l.hits c != 0) || l.events != 0 || l.phases != 0 || l.onArrival != 0 || l.stalls != 0
    || l.expiries != 0

/-- Counters added, saturating; the first-loss fields of the queued record are kept (R133). -/
def Loss.merge (queued new : Loss) : Loss :=
  { hits := tabulate fun c => satAdd (look queued.hits c) (look new.hits c)
    events := satAdd queued.events new.events
    phases := satAdd queued.phases new.phases
    onArrival := satAdd queued.onArrival new.onArrival
    stalls := satAdd queued.stalls new.stalls
    expiries := satAdd queued.expiries new.expiries
    first := queued.first }

/-! ### Handing records over (R131, R132, R133) -/

/-- Rewrite the youngest record that accepts the rewrite; `none` when no record does. A FAULT or LOSS whose abandoned
placement returned it to the head is older than one formed since, and stands for nothing after its placement began
(log 18). -/
def mergeYoungest (f : Record → Option Record) : List Record → Option (List Record)
  | [] => none
  | r :: rs =>
    match mergeYoungest f rs with
    | some rs' => some (r :: rs')
    | none => (f r).map (· :: rs)

def FaultKind.code : FaultKind → Nat
  | .skip => 1
  | .rewrite => 2
  | .partialWrite => 3
  | .stalled => 4
  | .downstream => 5
  | .foreign => 6

/-- A further fault merged into a queued FAULT record (R132). -/
def FaultRecord.merge (r : FaultRecord) (i : FaultInfo) : FaultRecord :=
  { r with
    furtherCount := satInc r.furtherCount
    furtherKinds := r.furtherKinds ||| (1#8 <<< (i.kind.code - 1))
    furtherChans :=
      match i.place with
      | .acoustic c => r.furtherChans ||| (1#32 <<< c.val)
      | .pressure | .elsewhere => r.furtherChans
    pressureMark :=
      match i.place with
      | .pressure => true
      | .acoustic _ | .elsewhere => r.pressureMark }

def mergeFault (i : FaultInfo) : Record → Option Record
  | .fault r => some (.fault (r.merge i))
  | _ => none

def mergeLoss (n : LossRecord) : Record → Option Record
  | .loss r => some (.loss { reason := n.reason, loss := r.loss.merge n.loss, horizon := n.horizon })
  | _ => none

def Core.setQueue (k : Core) (q : List Record) : Core := k.setWriter { k.writer with queue := q }

/-- Merge into the queue, or append when nothing there takes the merge. -/
def Core.mergeOrAppend (k : Core) (f : Record → Option Record) (r : Record) : Core :=
  k.setQueue ((mergeYoungest f k.writer.queue).getD (k.writer.queue ++ [r]))

/-- A fault raises its acoustic channel's fault count by one (R13). -/
def Core.countFault (k : Core) : FaultPlace → Core
  | .acoustic c => k.setTracker c { k.tracker c with faults := satInc (k.tracker c).faults }
  | .pressure | .elsewhere => k

/-- Raise a fault: count it, queue or merge its FAULT record, raise the FAULT cause (R13, R132). -/
def Core.raiseFault (k : Core) (i : FaultInfo) : Core :=
  let r : FaultRecord :=
    { first := i, horizon := k.streams.horizon, furtherCount := 0, furtherKinds := 0, furtherChans := 0,
      pressureMark := false }
  ((k.countFault i.place).mergeOrAppend (mergeFault i) (.fault r)).raise .fault

/-- Form the LOSS record, hand it over and zero the counters (R133, R146). -/
def Core.handLoss (k : Core) (reason : LossReason) : Core :=
  let r : LossRecord := { reason := reason, loss := k.writer.loss, horizon := k.streams.horizon }
  let k := k.mergeOrAppend (mergeLoss r) (.loss r)
  k.setWriter { k.writer with loss := Loss.zero }

/-- Hand a LOSS record over if any counter is not 0. -/
def Core.handLossIfCounted (k : Core) (reason : LossReason) : Core :=
  if k.writer.loss.counted then k.handLoss reason else k

/-- A new mode; each change marks the status dirty (R129). -/
def Core.setMode (k : Core) (m : WriterMode) : Core := (k.setWriter { k.writer with mode := m }).markDirty

/-- The exit test of SHEDDING (R143). -/
def Core.exitTest (k : Core) : Core :=
  if k.writer.mode = .shedding ∧ k.writer.occupancy ≤ k.global.resumeMark then
    (k.setMode .placing).handLossIfCounted .sheddingEnded
  else k

/-- While in SHEDDING, every sheddable record that reaches the head is discarded at once (R142, log 12). -/
def Core.shedHeads (k : Core) : Core :=
  if k.writer.mode = .shedding then
    let heads := k.writer.queue.takeWhile Record.sheddable
    (heads.foldl (fun k r => k.discard r false) k).setQueue (k.writer.queue.dropWhile Record.sheddable)
  else k

/-- Enter SHEDDING: the LOSS cause, the dirty mark and the exit test at once; a stall ends (R142, R145). -/
def Core.enterShedding (k : Core) : Core := (((k.setMode .shedding).raise .loss).exitTest).shedHeads

def sheddableQueued (q : List Record) : Nat := (q.filter Record.sheddable).length

/-- A sheddable record handed over (R131, R142). -/
def Core.handSheddable (k : Core) (r : Record) : Core :=
  if k.writer.mode = .shedding then k.discard r true
  else if 11 ≤ sheddableQueued k.writer.queue then (k.discard r true).enterShedding
  else k.setQueue (k.writer.queue ++ [r])

/-- Append a TRIGGER, FREEZE or CHECK record, set its unplaced mark and raise its cause, if it has one (R131, R134,
R135). -/
def Core.handTrigger (k : Core) (r : TriggerRecord) : Core :=
  (k.setWriter { k.writer with queue := k.writer.queue ++ [.trigger r], unplacedTrigger := true }).raise .trigger

def Core.handFreeze (k : Core) (r : FreezeRecord) : Core :=
  k.setWriter { k.writer with queue := k.writer.queue ++ [.freeze r], unplacedFreeze := true }

def Core.handCheck (k : Core) (r : CheckRecord) : Core :=
  (k.setWriter { k.writer with queue := k.writer.queue ++ [.check r], unplacedCheck := true }).raise .check

/-! ### Placement (R136 to R140) -/

/-- Slots of the record ring. -/
def Core.slots (k : Core) : Nat := k.recordEntry.size

/-- Free slots: S - 1 minus the occupancy (R136). -/
def Core.freeSlots (k : Core) : Nat := k.slots - 1 - k.writer.occupancy

/-- PAD slots needed for a record of n slots: those left before the ring end when it does not fit there (R137). -/
def Core.padFor (k : Core) (n : Nat) : Nat := if k.slots - k.writer.produce < n then k.slots - k.writer.produce else 0

/-- Span plus PAD length (R137). -/
def Core.need (k : Core) (r : Record) : Nat := r.span + k.padFor r.span

/-- The head can be placed: a sheddable head with 12 slots left free after it, a kept head with room (R137). -/
def Core.placeable (k : Core) (r : Record) : Bool :=
  if r.sheddable then decide (k.need r + 12 ≤ k.freeSlots) else decide (k.need r ≤ k.freeSlots)

/-- Begin the placement of the head: it leaves the queue and takes the next record number (R138). -/
def Core.beginPlacement (k : Core) (r : Record) (rest : List Record) : Core :=
  (k.setWriter { k.writer with
    queue := rest
    placement := some { record := r, number := k.writer.nextNumber, start := k.writer.produce, pad := k.padFor r.span,
                        granted := 0, completed := 0 } }).shedHeads

/-- Begin a stall (R144). -/
def Core.beginStall (k : Core) (now : BitVec 32) : Core :=
  let l := k.noteLoss k.writer.loss
  (k.setWriter { k.writer with loss := { l with stalls := satInc l.stalls } }).setMode (.stalling now k.global.stallLimit)

/-- The head does not fit: under SHED a sheddable head is discarded, under STALL in PLACING a stall begins, otherwise it
waits (R137, R142, R144). -/
def Core.headBlocked (k : Core) (r : Record) (rest : List Record) (now : BitVec 32) : Core :=
  match k.writer.mode with
  | .placing =>
    match k.global.policy with
    | .stall => k.beginStall now
    | .shed => if r.sheddable then ((k.setQueue rest).discard r false).enterShedding else k
  | .shedding | .stalling _ _ => k

/-- One consideration of the head record (R137, log 11). -/
def Core.considerHead (k : Core) (now : BitVec 32) : Core :=
  let k := k.shedHeads
  if k.writer.placement.isSome ∨ k.writer.halted ∨ ¬ k.recordEntry.valid then k
  else
    match k.writer.queue with
    | [] => k
    | r :: rest => if k.placeable r then k.beginPlacement r rest else k.headBlocked r rest now

/-- The number of writes of a placement: its PAD slots and its own slots. -/
def Placement.writes (p : Placement) : Nat := p.pad + p.record.span

/-- The next write of a placement may be presented: PAD and continuation slots one after another, slot 0 after every
other write has completed (R138). -/
def Placement.mayPresent (p : Placement) : Bool :=
  decide (p.granted + 1 < p.writes) || (decide (p.granted + 1 = p.writes) && p.completed == p.granted)

/-- Clear the unplaced mark of a record's kind (R134). -/
def Writer.clearMark (w : Writer) : Record → Writer
  | .trigger _ => { w with unplacedTrigger := false }
  | .freeze _ => { w with unplacedFreeze := false }
  | .check _ => { w with unplacedCheck := false }
  | .hit _ | .event _ | .phase _ | .fault _ | .loss _ => w

/-- A stall ends, PLACING follows (R145). -/
def Core.endStall (k : Core) : Core :=
  match k.writer.mode with
  | .stalling _ _ => k.setMode .placing
  | .placing | .shedding => k

/-- Publication (R139). -/
def Core.publish (k : Core) (p : Placement) : Core :=
  let need := p.writes
  let w := k.writer
  let k := k.setWriter ({ w with
    produce := (w.produce + need) % k.slots
    occupancy := w.occupancy + need
    nextNumber := w.nextNumber + 1
    placement := none }.clearMark p.record)
  let k := if k.global.attentionMark ≤ k.writer.occupancy then k.raise .record else k
  k.endStall

/-- A placement write completed DONE: it counts toward publication (R139). -/
def Core.recordWritten (k : Core) : Core :=
  match k.writer.placement with
  | none => k
  | some p =>
    let p := { p with completed := p.completed + 1 }
    if p.completed = p.writes then k.publish p else k.setWriter { k.writer with placement := some p }

/-- An internal write completed FAILED: the writer is halted, and a stall in progress ends (R148). -/
def Core.halt (k : Core) : Core :=
  if k.writer.halted then k else ((k.setWriter { k.writer with halted := true }).endStall).markDirty

/-- The placement is abandoned and its record returns to the head of the queue, its number not consumed (R149). That the
queue may then hold one record more than R131 allows is the model's own choice (log 42). -/
def Core.abandonPlacement (k : Core) : Core :=
  match k.writer.placement with
  | none => k
  | some p => k.setWriter { k.writer with placement := none, queue := p.record :: k.writer.queue }

/-! ### Drain (R141) -/

/-- Release slots from the drain index on, as long as the read covers the slot there. -/
def drainLoop (slots : List Nat) (size : Nat) : Nat → Nat → Nat → Nat × Nat
  | 0, drain, occ => (drain, occ)
  | fuel + 1, drain, occ =>
    if drain ∈ slots ∧ 0 < occ then drainLoop slots size fuel ((drain + 1) % size) (occ - 1) else (drain, occ)

/-- The record ring slots among the blocks of a read. -/
def recordSlotsOf (ps : List Place) : List Nat :=
  ps.filterMap fun
    | .record n => some n
    | .acoustic _ _ | .pressure _ | .control _ | .plain => none

/-- The drain test for a host read returned DONE, and the exit test after a drain. -/
def Core.drainRead (k : Core) (ps : List Place) : Core :=
  let slots := recordSlotsOf ps
  let r := drainLoop slots k.slots slots.length k.writer.drain k.writer.occupancy
  if r.2 = k.writer.occupancy then k
  else (k.setWriter { k.writer with drain := r.1, occupancy := r.2 }).exitTest

/-! ### Stall expiry (R144, R145) -/

/-- The time elapsed in a stall (R144). -/
def elapsed (now start : BitVec 32) : Nat := (now - start).toNat

/-- The stall ends by its limit: counted, a sheddable head discarded, SHEDDING entered (R145). That the head is the oldest
queued record, also while the record that caused the stall is being placed, is the model's own choice (log 41). -/
def Core.expireStall (k : Core) : Core :=
  let k := k.setWriter { k.writer with loss := { k.writer.loss with expiries := satInc k.writer.loss.expiries } }
  let k :=
    match k.writer.queue with
    | [] => k
    | r :: rest => if r.sheddable then (k.setQueue rest).discard r false else k
  k.enterShedding

/-- STALL_EXPIRY at a reading of the time reference. -/
def Core.stallExpiry (k : Core) (now : BitVec 32) : Core :=
  match k.writer.mode with
  | .stalling start limit => if limit ≤ elapsed now start then k.expireStall else k
  | .placing | .shedding => k

end Sys2Proof.Machine
end

