-- ==== Sys2Proof/Machine/WriteGuard.lean ====
section
/-! DEFINITION. The write guard's hold table: allocation, growth, closure, the forward-or-absorb decision, and release
(R70 to R89). Freezing stands in Freeze.lean. -/

namespace Sys2Proof.Machine

/-- The hold numbers in ascending order. -/
def allHolds : List (Fin 64) := List.finRange 64

def Core.hold (k : Core) (h : Fin 64) : Option Hold := look k.guard.holds h

def Core.setHold (k : Core) (h : Fin 64) (x : Option Hold) : Core :=
  k.setGuard { k.guard with holds := put k.guard.holds h x }

/-- A ring index lies in the range of a hold: the block count consecutive indices from the first, modulo the ring size
(R70). -/
def Hold.covers (h : Hold) (size n : Nat) : Bool := decide ((n + size - h.first) % size < h.count)

/-- The last ring index of a range (R70). -/
def Hold.last (h : Hold) (size : Nat) : Nat := (h.first + h.count - 1) % size

/-- An entry of the table is a hold of channel c whose range contains ring index n. -/
def Core.holdCovers (k : Core) (c : Chan) (n : Nat) (h : Fin 64) : Bool :=
  match k.hold h with
  | some x => x.chan == c && x.covers (k.ringSize c) n
  | none => false

/-- The hold of channel c whose range contains ring index n, if there is one (ranges are disjoint, R71). -/
def Core.holdAt (k : Core) (c : Chan) (n : Nat) : Option (Fin 64) := allHolds.find? (k.holdCovers c n)

/-- The reserved total of a channel: the sum of the reserved blocks of its holds (R71). -/
def Core.reservedTotal (k : Core) (c : Chan) : Nat :=
  (allHolds.map fun h =>
    match k.hold h with
    | some x => if x.chan = c then x.reserved else 0
    | none => 0).sum

/-- Holds in use: entries that are PENDING or HELD (R70). -/
def Core.holdsInUse (k : Core) : Nat := (allHolds.filter fun h => (k.hold h).isSome).length

/-- The lowest-numbered FREE entry. -/
def Core.freeHold (k : Core) : Option (Fin 64) := allHolds.find? fun h => (k.hold h).isNone

/-! ### Allocation (R72 to R74) -/

/-- A request for a hold: hit number, opening ring index, blocks of the stream before the opening block, pre-blocks,
maximum length and hold mode. -/
structure HoldRequest where
  hit       : Num
  index     : Nat
  before    : Nat
  preBlocks : Nat
  maxLen    : Nat
  mode      : HoldMode
  deriving DecidableEq, Repr

/-- The largest k reached by stepping back while the next block behind is clear. -/
def backReach (clearAt : Nat → Bool) : Nat → Nat → Nat
  | 0, k => k
  | fuel + 1, k => if clearAt (k + 1) then backReach clearAt fuel (k + 1) else k

/-- First ring index and block count of a new hold (R73). -/
def Core.newRange (k : Core) (c : Chan) (r : HoldRequest) : Nat × Nat :=
  let size := k.ringSize c
  let clearAt := fun i => (k.holdAt c ((r.index + size - i) % size)).isNone
  if clearAt 0 then
    let b := backReach clearAt (min r.preBlocks r.before) 0
    ((r.index + size - b) % size, b + 1)
  else ((r.index + 1) % size, 0)

/-- The release mode of a hold mode that asks for a hold (R74). -/
def HoldMode.release : HoldMode → ReleaseMode
  | .onRead => .onRead
  | .noHolds | .onCommand => .onCommand

/-- Ask for a hold at a hit opening: the first outcome of R72 that applies. -/
def Core.requestHold (k : Core) (c : Chan) (r : HoldRequest) : Core × HitHold :=
  let range := k.newRange c r
  let reservation := range.2 + r.maxLen
  if r.mode = .noHolds then (k, .noHold .noMode)
  else if (k.tracker c).frozen then (k, .noHold .frozen)
  else if k.ringSize c / 4 < k.reservedTotal c + reservation then (k, .noHold .limit)
  else
    match k.freeHold with
    | none => (k, .noHold .table)
    | some h =>
      (k.setHold h (some
        { state := .pending, chan := c, first := range.1, count := range.2, capped := false, release := r.mode.release,
          reserved := reservation, absorbed := 0, owner := r.hit }), .held h)

/-! ### Following the hit (R75, R76) -/

/-- A later block of the hit that owns hold h is reported (R75). -/
def Core.growHold (k : Core) (c : Chan) (n : Nat) (h : Fin 64) : Core :=
  match k.hold h with
  | none => k
  | some x =>
    match x.state with
    | .held => k
    | .pending =>
      if x.capped then k
      else if (k.tracker c).frozen || (allHolds.any fun g => g != h && k.holdCovers c n g) then
        k.setHold h (some { x with capped := true })
      else k.setHold h (some { x with count := x.count + 1 })

/-- Report a later block of a hit to the guard. -/
def Core.reportBlock (k : Core) (c : Chan) (n : Nat) : HitHold → Core
  | .held h => k.growHold c n h
  | .noHold _ => k

/-- The hit that owns hold h closes; the guard answers the range (R76). -/
def Core.closeHold (k : Core) (h : Fin 64) : Core × Option (Nat × Nat) :=
  match k.hold h with
  | none => (k, none)
  | some x =>
    if x.count = 0 then (k.setHold h none, some (x.first, 0))
    else (k.setHold h (some { x with state := .held, reserved := x.count }), some (x.first, x.count))

/-- Report the closure of a hit to the guard. -/
def Core.reportClosure (k : Core) : HitHold → Core × Option (Nat × Nat)
  | .held h => k.closeHold h
  | .noHold _ => (k, none)

/-! ### Forward or absorb (R77 to R81) -/

/-- The state at acceptance absorbs a write to ring index n of channel c: a held range or the frozen flag (R78). -/
def Core.absorbsAcoustic (k : Core) (c : Chan) (n : Nat) : Bool := (k.holdAt c n).isSome || (k.tracker c).frozen

/-- Count a write absorbed by a hold (R81). -/
def Core.countHoldAbsorbed (k : Core) : Option (Fin 64) → Core
  | none => k
  | some h =>
    match k.hold h with
    | none => k
    | some x => k.setHold h (some { x with absorbed := satInc x.absorbed })

/-- Count a write absorbed in acoustic ring c; `held` is the hold that contained it at acceptance (R20, R81). -/
def Core.countAbsorbed (k : Core) (c : Chan) (held : Option (Fin 64)) : Core :=
  (k.setTracker c { k.tracker c with absorbed := satInc (k.tracker c).absorbed }).countHoldAbsorbed held

/-! ### Release (R83 to R87) -/

/-- The open hit of a channel loses its hold early (R44, R83). -/
def Detector.releaseEarly (d : Detector) (h : Fin 64) : Detector :=
  match d.state with
  | .opened hit =>
    if hit.hold = .held h then
      { d with state := .opened { hit with hold := .noHold .released, flags := { hit.flags with releasedEarly := true } } }
    else d
  | .idle | .armed _ | .guard _ | .check _ => d

/-- Tell the detector of a PENDING hold's channel that the hold is released. -/
def Core.tellReleased (k : Core) (x : Hold) (h : Fin 64) : Core :=
  match x.state with
  | .pending => k.setDetector x.chan ((k.detector x.chan).releaseEarly h)
  | .held => k

/-- Release entry h, if it is in use (R83). -/
def Core.releaseHold (k : Core) (h : Fin 64) : Core :=
  match k.hold h with
  | none => k
  | some x => (k.setHold h none).tellReleased x h

/-- The hold numbers in use whose hold satisfies a test, ascending. -/
def Core.holdsWhere (k : Core) (p : Fin 64 → Hold → Bool) : List (Fin 64) :=
  allHolds.filter fun h =>
    match k.hold h with
    | some x => p h x
    | none => false

def Core.releaseList (k : Core) (hs : List (Fin 64)) : Core := hs.foldl Core.releaseHold k

/-- Absorbed count of an entry, 0 when FREE. -/
def Core.holdAbsorbed (k : Core) (h : Fin 64) : Nat :=
  match k.hold h with
  | some x => x.absorbed
  | none => 0

/-- The ring indices of channel c among the blocks of a read. -/
def acousticIndices (c : Chan) (ps : List Place) : List Nat :=
  ps.filterMap fun
    | .acoustic c' n => if c' = c then some n else none
    | .pressure _ | .record _ | .control _ | .plain => none

/-- The read-release of a host read returned DONE (R84). -/
def Core.readRelease (k : Core) (ps : List Place) : Core :=
  k.releaseList (k.holdsWhere fun _ x =>
    x.state == .held && x.release == .onRead && (acousticIndices x.chan ps).contains (x.last (k.ringSize x.chan)))

/-- Release every hold of a channel (R86, R87). -/
def Core.channelHolds (k : Core) (c : Chan) : List (Fin 64) := k.holdsWhere fun _ x => x.chan == c

end Sys2Proof.Machine
end

