-- ==== Sys2Proof/Machine/HitClosing.lean ====
section
/-! DEFINITION. The detector's threshold, its entry into ARMED and CHECK, and the closure of a hit (R25, R39, R43, R46). -/

namespace Sys2Proof.Machine

/-- The quotient of two natural numbers rounded up (R1). -/
def ceilDiv (a b : Nat) : Nat := (a + b - 1) / b

/-- The threshold a detector computes from its channel's settings and its noise estimate (R25). -/
def thresholdFor (cs : ChannelSettings) (noise : Nat) : Nat :=
  match cs.mode with
  | .fixed => cs.threshold
  | .floating => min (max cs.threshold (ceilDiv (noise * cs.margin) 8)) 32767

/-- The threshold in force is computed (R25). -/
def Core.computeThreshold (k : Core) (c : Chan) : Core :=
  let d := k.detector c
  k.setDetector c { d with threshold := thresholdFor (k.settingsOf c) d.noise }

def Core.setDetectorState (k : Core) (c : Chan) (st : DetectorState) : Core :=
  k.setDetector c { k.detector c with state := st }

/-- Enter ARMED with a continuation end or none; the threshold in force is computed (R25). -/
def Core.enterArmed (k : Core) (c : Chan) (contEnd : Option Nat) : Core :=
  (k.setDetectorState c (.armed contEnd)).computeThreshold c

def CheckContext.empty : CheckContext := { retained := [], overflow := false, peak := 0 }

/-- Enter CHECK with an empty check context; the threshold in force is computed (R25, R43). -/
def Core.enterCheck (k : Core) (c : Chan) : Core :=
  (k.setDetectorState c (.check CheckContext.empty)).computeThreshold c

def Core.setPrev (k : Core) (c : Chan) (m : Nat) : Core := k.setDetector c { k.detector c with prev := m }

/-- The recorded energy (R34). -/
def recordedEnergy (snapshot : Nat) : Nat := min (snapshot / 65536) (2 ^ 32 - 1)

/-- The HIT record of a hit that closes (R39, R46); a hit whose peak has not settled carries UNSETTLED (R33). -/
def HitContext.toRecord (h : HitContext) (reason : HitEnd) (closing : Nat) (range : Option (Nat × Nat)) : HitRecord :=
  { number := h.number, chan := h.chan, reason := reason, flags := { h.flags with unsettled := !h.settled },
    arrival := h.arrival, closing := closing, duration := h.lastCrossing - h.arrival, rise := h.peakTime - h.arrival,
    peak := h.peak, counts := h.counts, countsToPeak := h.countsToPeak, energy := recordedEnergy h.snapshot,
    threshold := h.threshold, openIndex := h.openIndex, hold := h.hold, range := range, mean := h.mean,
    phase := h.phase }

/-- What a closing hit does: the guard is told and the HIT record is handed over. The detector's new state is set by the
rule that closes the hit (R39). -/
def Core.closeHit (k : Core) (h : HitContext) (reason : HitEnd) (closing : Nat) : Core :=
  let g := k.reportClosure h.hold
  g.1.handSheddable (.hit (h.toRecord reason closing g.2))

/-- Close the open hit of a channel, if there is one, at its stream time (R41, R42, R43). -/
def Core.closeIfOpen (k : Core) (c : Chan) (reason : HitEnd) : Core :=
  match (k.detector c).state with
  | .opened h => k.closeHit h reason (k.tracker c).time
  | .idle | .armed _ | .guard _ | .check _ => k

/-- A detector enters IDLE; an open hit closes WITHDRAWN first (R41, R42). -/
def Core.withdraw (k : Core) (c : Chan) : Core := (k.closeIfOpen c .withdrawn).setDetectorState c .idle

/-- At a check start, an enabled detector enters CHECK; an open hit closes CHECK_CUT first. A detector in IDLE stays
(R43). -/
def Core.enterCheckAtStart (k : Core) (c : Chan) : Core :=
  if k.enabled c then
    match (k.detector c).state with
    | .idle => k
    | .armed _ | .opened _ | .guard _ | .check _ => (k.closeIfOpen c .checkCut).enterCheck c
  else k

/-- At a check's end, a detector in CHECK discards its context and enters ARMED (R43). -/
def Core.leaveCheck (k : Core) (c : Chan) : Core :=
  match (k.detector c).state with
  | .check _ => k.enterArmed c none
  | .idle | .armed _ | .opened _ | .guard _ => k

end Sys2Proof.Machine
end

