-- ==== Sys2Proof/Machine/Freeze.lean ====
section
/-! DEFINITION. Freezing the rings, the all-frozen step, and the taking of a trigger (R79, R100 to R106, R112, R113). -/

namespace Sys2Proof.Machine

def Core.freezeOf (k : Core) (c : Chan) : RingFreeze := look k.guard.freeze c

def Core.setFreeze (k : Core) (c : Chan) (x : RingFreeze) : Core :=
  k.setGuard { k.guard with freeze := put k.guard.freeze c x }

def Core.setPressureFreeze (k : Core) (x : RingFreeze) : Core := k.setGuard { k.guard with pFreeze := x }

def Core.lastForwarded (k : Core) (c : Chan) : Option Nat := look k.guard.lastFwd c

/-- An open hit is told of the freeze of its ring (R44). -/
def Detector.markFrozen (d : Detector) : Detector :=
  match d.state with
  | .opened h => { d with state := .opened { h with flags := { h.flags with frozenDuring := true } } }
  | .idle | .armed _ | .guard _ | .check _ => d

/-- An acoustic ring freezes: its freeze state, its freeze point (the last forwarded index as it stands), its frozen
flag, and FROZEN_DURING for an open hit (R102, R103). -/
def Core.freezeRing (k : Core) (c : Chan) (st : FreezeState) : Core :=
  let k := k.setFreeze c { state := st, point := k.lastForwarded c }
  let k := k.setTracker c { k.tracker c with frozen := true }
  k.setDetector c (k.detector c).markFrozen

/-- The pressure ring freezes (R104). -/
def Core.freezePressure (k : Core) (st : FreezeState) : Core :=
  let k := k.setPressureFreeze { state := st, point := k.guard.pLastFwd }
  k.setStreams { k.streams with pressure := { k.streams.pressure with frozen := true } }

/-- Some acoustic ring is COUNTING. -/
def Core.someCounting (k : Core) : Bool := allChans.any fun c => (k.freezeOf c).state == .counting

/-- The FREEZE record (R113), formed while a post-trigger context is present. -/
def Core.freezeRecord (k : Core) (reason : FreezeEnd) (p : PostTrigger) : FreezeRecord :=
  { reason := reason, source := p.source, tt := k.monitor.tt, f := p.freezeTime, horizon := k.streams.horizon,
    extra := p.extra, rings := k.guard.freeze, pRing := k.guard.pFreeze, pCount := k.streams.pressure.count }

/-- Form the FREEZE record and hand it over; there is one only with a post-trigger context. -/
def Core.handFreezeRecord (k : Core) (reason : FreezeEnd) : Core :=
  match k.monitor.post with
  | some p => k.handFreeze (k.freezeRecord reason p)
  | none => k

/-- The all-frozen step (R105). -/
def Core.allFrozenStep (k : Core) : Core :=
  let k := if k.guard.pFreeze.state = .counting then k.freezePressure .withAcoustic else k
  ((k.setRun .frozen).handFreezeRecord .complete).raise .frozen

/-- The all-frozen test (R105). -/
def Core.allFrozenTest (k : Core) : Core := if k.someCounting then k else k.allFrozenStep

/-- Freeze a COUNTING acoustic ring at once, then the all-frozen test (R103). -/
def Core.freezeAtOnce (k : Core) (c : Chan) (st : FreezeState) : Core :=
  if (k.freezeOf c).state = .counting then (k.freezeRing c st).allFrozenTest else k

/-- The freeze state an acoustic channel is given when a trigger is taken (R100 step 4, R103). -/
def Core.freezeStateAtTrigger (k : Core) (c : Chan) : FreezeState :=
  if k.hasRing c then
    if !k.enabled c then .disabled
    else if (k.tracker c).stalled then .stalled
    else .counting
  else .noRing

/-- Step 4 of R100 for one channel. -/
def Core.giveFreezeState (k : Core) (c : Chan) : Core :=
  match k.freezeStateAtTrigger c with
  | .disabled => k.freezeRing c .disabled
  | .stalled => k.freezeRing c .stalled
  | .counting => k.setFreeze c { state := .counting, point := none }
  | .none | .atWrite | .atCount | .withAcoustic | .notFrozen | .noRing => k.setFreeze c { state := .noRing, point := none }

/-- The channels frozen at once by a trigger. -/
def Core.frozenAtOnce (k : Core) : BitVec 32 :=
  chanSet fun c =>
    match k.freezeStateAtTrigger c with
    | .disabled | .stalled => true
    | .none | .counting | .atWrite | .atCount | .withAcoustic | .notFrozen | .noRing => false

/-- A trigger as it is taken: its source, the extra count it carries, and the flags of its record. -/
structure TriggerTaking where
  source         : TriggerSource
  extra          : Nat
  queued         : Bool
  checkAbandoned : Bool
  deriving DecidableEq, Repr

/-- Step 1 of R100: Tt and the post-trigger context. -/
def Core.postContext (k : Core) (t : TriggerTaking) : PostTrigger :=
  { source := t.source, freezeTime := k.streams.horizon + 32 * k.global.postTrigger, tp := k.streams.pressure.count,
    freezeNumber := k.streams.pressure.count + k.global.postTriggerP, extra := t.extra }

/-- The TRIGGER record (R112). -/
def Core.triggerRecord (k : Core) (t : TriggerTaking) : TriggerRecord :=
  { source := t.source, queued := t.queued, checkAbandoned := t.checkAbandoned, tt := k.streams.horizon,
    lead := k.streams.lead, freezeTime := k.streams.horizon + 32 * k.global.postTrigger, d := k.global.postTrigger,
    dp := k.global.postTriggerP, tp := k.streams.pressure.count, mean := k.monitor.mean, pmax := k.monitor.pmax,
    phase := k.monitor.phase, frozenAtOnce := k.frozenAtOnce, queuedExtra := t.extra }

/-- Take a trigger (R100). -/
def Core.takeTrigger (k : Core) (t : TriggerTaking) : Core :=
  let record := k.triggerRecord t
  let k := k.setMonitor { k.monitor with tt := k.streams.horizon, post := some (k.postContext t) }
  let k := (k.setRun .postTrigger).handTrigger record
  let k := forChans Core.giveFreezeState k
  let k := k.setPressureFreeze
    { state := if k.pressureEntry.valid then .counting else .noRing, point := none }
  k.allFrozenTest

/-- An extra trigger raises the count of the post-trigger context (R106). -/
def Core.extraTrigger (k : Core) : Core :=
  match k.monitor.post with
  | some p => k.setMonitor { k.monitor with post := some { p with extra := satInc p.extra } }
  | none => k

/-- The extra-trigger count, 0 without a post-trigger context. -/
def Core.extraCount (k : Core) : Nat :=
  match k.monitor.post with
  | some p => p.extra
  | none => 0

/-- The end of a freeze: frozen flags clear, freeze states NONE, the context discarded (R109, R110). -/
def Core.endFreeze (k : Core) : Core :=
  let k := k.setStreams { k.streams with
    chan := tabulate fun c => { look k.streams.chan c with frozen := false }
    pressure := { k.streams.pressure with frozen := false } }
  let k := k.setGuard { k.guard with freeze := Vector.replicate 32 RingFreeze.reset, pFreeze := RingFreeze.reset }
  k.setMonitor { k.monitor with post := none }

end Sys2Proof.Machine
end

