-- ==== Sys2Proof/Machine/CouplingCheck.lean ====
section
/-! DEFINITION. The coupling check unit and the dispatch of triggers (R98, R99, R107, R108, R115 to R128). -/

namespace Sys2Proof.Machine

/-- A new check state; each change marks the status dirty (R115). -/
def Core.setCheckState (k : Core) (st : CheckState) : Core := (k.setCheck { k.check with state := st }).markDirty

/-- A check runs. -/
def Core.checkRuns (k : Core) : Bool := k.check.state != .idle

/-- The check context that a channel's detector holds, empty when it holds none (R127). -/
def Core.checkContext (k : Core) (c : Chan) : CheckContext :=
  match (k.detector c).state with
  | .check ctx => ctx
  | .idle | .armed _ | .opened _ | .guard _ => CheckContext.empty

/-! ### Results (R123, R124) -/

/-- The first retained crossing in T0 to T0 + L, less T0. -/
def CheckUnit.delayOf (u : CheckUnit) (ctx : CheckContext) : Option Nat :=
  u.t0.bind fun t0 => (ctx.retained.find? fun t => decide (t0 ≤ t) && decide (t ≤ t0 + u.window)).map (· - t0)

/-- The result code of a channel: the first case of R123 that applies. -/
def CheckUnit.resultOf (u : CheckUnit) (c : Chan) (ctx : CheckContext) (reason : CheckEnd) : CheckResult :=
  if c = u.source then .source
  else if look u.disabled c then .disabled
  else if look u.stalled c then .stalled
  else if reason ≠ .complete then .notMeasured
  else
    match u.delayOf ctx with
    | some d => if d ≤ 4094 then .valid else .noPulse
    | none => if ctx.overflow then .noisy else .noPulse

/-- A channel's entry of the CHECK record (R127). -/
def Core.checkEntry (k : Core) (reason : CheckEnd) (c : Chan) : CheckEntry :=
  let ctx := k.checkContext c
  let r := k.check.resultOf c ctx reason
  { result := r, delay := if r = .valid then k.check.delayOf ctx else none, peak := ctx.peak,
    retained := ctx.retained.length, overflow := ctx.overflow }

/-- Row k after the path update: VALID delays, NEVER for NONE, the rest as it stands (R124). -/
def updatedRow (row : Vector (BitVec 12) 32) (es : Vector CheckEntry 32) : Vector (BitVec 12) 32 :=
  tabulate fun c =>
    match (look es c).result with
    | .valid => BitVec.ofNat 12 ((look es c).delay.getD 0)
    | .noPulse => never
    | .source | .noisy | .stalled | .disabled | .notMeasured => look row c

/-- The check writes its row: it ends COMPLETE with its update flag set (R124). -/
def Core.updatesPath (k : Core) (reason : CheckEnd) : Bool := reason == .complete && k.check.update

def Core.writeRow (k : Core) (es : Vector CheckEntry 32) : Core :=
  k.setGroup { k.group with
    path := put k.group.path k.check.source (updatedRow (look k.group.path k.check.source) es) }

/-- The CHECK record (R127). -/
def Core.checkRecord (k : Core) (reason : CheckEnd) (cause : Option AbandonCause) (triggerQueued : Bool) : CheckRecord :=
  { reason := reason, cause := cause, source := k.check.source, window := k.check.window, update := k.check.update,
    pathUpdated := k.updatesPath reason, triggerQueued := triggerQueued, fireTime := k.check.fireTime, t0 := k.check.t0,
    horizon := k.streams.horizon, entries := tabulate (k.checkEntry reason) }

/-- Steps 1 to 4 of R125, and the same work of an abandoned check (R126): results, path update, record and cause, check
state IDLE. -/
def Core.endCheck (k : Core) (reason : CheckEnd) (cause : Option AbandonCause) (triggerQueued : Bool) : Core :=
  let r := k.checkRecord reason cause triggerQueued
  let k := if k.updatesPath reason then k.writeRow r.entries else k
  (k.handCheck r).setCheckState .idle

def Core.setQueuedTrigger (k : Core) (q : Option QueuedTrigger) : Core := k.setCheck { k.check with queued := q }

/-- A check that ends COMPLETE or NO_SOURCE is finished (R125). -/
def Core.finishCheck (k : Core) (reason : CheckEnd) : Core :=
  let q := k.check.queued
  let k := forChans Core.leaveCheck (k.endCheck reason none q.isSome)
  match q with
  | some q =>
    (k.setQueuedTrigger none).takeTrigger { source := q.source, extra := q.extra, queued := true, checkAbandoned := false }
  | none => k

/-- STOP abandons a running check: record, cause, queued trigger discarded; the detectors enter IDLE afterwards (R126). -/
def Core.abandonByStop (k : Core) : Core :=
  if k.checkRuns then (k.endCheck .abandoned (some .stop) false).setQueuedTrigger none else k

/-! ### Dispatch of a trigger (R99) -/

/-- A trigger dispatched while a check runs under QUEUE (R107). -/
def Core.queueTrigger (k : Core) (src : TriggerSource) : Core × TriggerOutcome × Nat :=
  match k.check.queued with
  | none => (k.setQueuedTrigger (some { source := src, extra := 0 }), .queued, 0)
  | some q => (k.setQueuedTrigger (some { q with extra := satInc q.extra }), .extra, satInc q.extra)

/-- A trigger dispatched while a check runs under ABANDON (R108, R126). -/
def Core.abandonByTrigger (k : Core) (src : TriggerSource) : Core × TriggerOutcome × Nat :=
  let q := k.check.queued
  let k := forChans Core.leaveCheck ((k.endCheck .abandoned (some .trigger) q.isSome).setQueuedTrigger none)
  match q with
  | none => (k.takeTrigger { source := src, extra := 0, queued := false, checkAbandoned := true }, .taken, 0)
  | some q =>
    let k := (k.takeTrigger { source := q.source, extra := q.extra, queued := true, checkAbandoned := true }).extraTrigger
    (k, .extra, k.extraCount)

/-- Where a trigger goes, with its outcome and, for EXTRA, the count that rose (R98, R99). -/
def Core.dispatchTrigger (k : Core) (src : TriggerSource) : Core × TriggerOutcome × Nat :=
  match k.unit.run with
  | .listening =>
    if k.checkRuns then
      match k.global.triggerInCheck with
      | .queue => k.queueTrigger src
      | .abandon => k.abandonByTrigger src
    else (k.takeTrigger { source := src, extra := 0, queued := false, checkAbandoned := false }, .taken, 0)
  | .postTrigger | .frozen | .stopped =>
    let k := k.extraTrigger
    (k, .extra, k.extraCount)

/-! ### Taking a check (R117, R118) -/

/-- The refusal of a CHECK, if a test fails (R117). -/
def Core.checkRefusal (k : Core) (src : Nat) (window : Nat) : Option AnswerResult :=
  if k.unit.run ≠ .listening then some .wrongState
  else if k.checkRuns then some .wrongState
  else if k.writer.unplacedCheck then some .pending
  else
    match chanOf src with
    | none => some .invalidField
    | some c =>
      if window < 16 ∨ 4095 < window then some .invalidField
      else if k.participates c then none
      else some .sourceUnavailable

/-- A detector is in CHECK. -/
def Detector.inCheck (d : Detector) : Bool :=
  match d.state with
  | .check _ => true
  | .idle | .armed _ | .opened _ | .guard _ => false

/-- Take a check from source c (R118); the strobe fires and the select lines drive the source (R119). -/
def Core.takeCheck (k : Core) (c : Chan) (window : Nat) (update : Bool) : Core :=
  let k := forChans Core.enterCheckAtStart k
  (k.setCheck
    { state := .firing, source := c, window := window, update := update, fireTime := (k.tracker c).time, t0 := none,
      disabled := tabulate fun j => !(k.detector j).inCheck, stalled := tabulate fun j => (k.tracker j).stalled,
      queued := none, select := BitVec.ofNat 5 c.val, strobe := true }).markDirty

/-! ### Following the channels (R122) -/

def Core.markStalled (k : Core) (c : Chan) : Core :=
  if k.checkRuns then k.setCheck { k.check with stalled := put k.check.stalled c true } else k

def Core.markDisabled (k : Core) (c : Chan) : Core :=
  if k.checkRuns then k.setCheck { k.check with disabled := put k.check.disabled c true } else k

/-- The listen window lies below the horizon (R121). -/
def Core.windowPassed (k : Core) : Bool :=
  match k.check.state, k.check.t0 with
  | .listening, some t0 => decide (t0 + k.check.window < k.streams.horizon)
  | _, _ => false

end Sys2Proof.Machine
end

