-- ==== Sys2Proof/Machine/Grouping.lean ====
section
/-! DEFINITION. The arrival sorter and the event grouper (R49 to R69). -/

namespace Sys2Proof.Machine

/-- Order of the arrival list: time, then channel (R49). -/
def Arrival.before (a b : Arrival) : Bool := decide (a.time < b.time) || (a.time == b.time && decide (a.chan.val < b.chan.val))

/-- An arrival entered at its place. -/
def insertArrival (a : Arrival) : List Arrival → List Arrival
  | [] => [a]
  | b :: bs => if a.before b then a :: b :: bs else b :: insertArrival a bs

/-! ### Choosing among open events -/

def allEvents : List (Fin 8) := List.finRange 8

/-- The open events with their entry numbers. -/
def Grouper.openEvents (g : Grouper) : List (Fin 8 × Event) :=
  allEvents.filterMap fun i => (look g.events i).map fun e => (i, e)

/-- Order by a key and then by event number. -/
def eventBefore (key : Event → Nat) (a b : Fin 8 × Event) : Bool :=
  decide (key a.2 < key b.2) || (key a.2 == key b.2 && decide (a.2.number.toNat < b.2.number.toNat))

def insertEvent (key : Event → Nat) (a : Fin 8 × Event) : List (Fin 8 × Event) → List (Fin 8 × Event)
  | [] => [a]
  | b :: bs => if eventBefore key a b then a :: b :: bs else b :: insertEvent key a bs

/-- Events in ascending order of a key and then of event number. -/
def sortEvents (key : Event → Nat) (es : List (Fin 8 × Event)) : List (Fin 8 × Event) :=
  es.foldr (insertEvent key) []

/-! ### Closing events (R58 to R60) -/

def Core.setEvent (k : Core) (i : Fin 8) (e : Option Event) : Core :=
  k.setGroup { k.group with events := put k.group.events i e }

def Core.eventRecord (k : Core) (e : Event) (reason : EventEnd) : EventRecord :=
  { event := e, reason := reason, horizon := k.streams.horizon, refused := k.group.refused, late := k.group.late,
    forced := k.group.forced, sparse := k.group.sparse }

/-- Close one event: its record, or a sparse event counted (R60). -/
def Core.closeEvent (k : Core) (i : Fin 8) (reason : EventEnd) : Core :=
  match look k.group.events i with
  | none => k
  | some e =>
    let k := k.setEvent i none
    if e.minMembers ≤ e.members.length then k.handSheddable (.event (k.eventRecord e reason))
    else k.setGroup { k.group with sparse := satInc k.group.sparse }

/-- Close every open event that satisfies a test, in ascending order of window end and then of event number (R51, R59,
R65). -/
def Core.closeEvents (k : Core) (p : Event → Bool) (reason : EventEnd) : Core :=
  (sortEvents Event.windowEnd (k.group.openEvents.filter fun ie => p ie.2)).foldl
    (fun k ie => k.closeEvent ie.1 reason) k

/-- Close the events whose window ends lie below a time. -/
def Core.closeBelow (k : Core) (t : Nat) : Core := k.closeEvents (fun e => decide (e.windowEnd < t)) .window

/-- Close the open event with the smallest T0 to free an entry (R58). -/
def Core.forceClosure (k : Core) : Core :=
  match sortEvents Event.t0 k.group.openEvents with
  | [] => k
  | ie :: _ => (k.setGroup { k.group with forced := satInc k.group.forced }).closeEvent ie.1 .forced

/-! ### Joining and opening (R54, R56, R57) -/

def Grouper.pathOf (g : Grouper) (f j : Chan) : BitVec 12 := look (look g.path f) j

/-- An open event is a candidate for an arrival (R54). -/
def Grouper.candidate (g : Grouper) (a : Arrival) (e : Event) : Bool :=
  (e.members.all fun m => m.chan != a.chan) && g.pathOf e.first a.chan != never
    && decide (a.time ≤ e.t0 + (g.pathOf e.first a.chan).toNat + e.slack)

def Core.memberFor (k : Core) (a : Arrival) (t0 : Nat) : Member :=
  { chan := a.chan, offset := a.time - t0, stalled := (k.tracker a.chan).stalled }

/-- The largest entry of row f that is not NEVER, over the other channels; 0 when there is none (R56). -/
def Grouper.largestPath (g : Grouper) (f : Chan) : Nat :=
  allChans.foldl (fun acc j => if j = f ∨ g.pathOf f j = never then acc else max acc (g.pathOf f j).toNat) 0

/-- The event that an arrival opens (R56, R57). -/
def Core.newEvent (k : Core) (a : Arrival) : Event :=
  { number := k.group.nextEvent, first := a.chan, firstHit := a.hit, t0 := a.time,
    windowEnd := a.time + k.global.slack + k.group.largestPath a.chan, slack := k.global.slack,
    minMembers := k.global.minMembers, members := [k.memberFor a a.time], belowPeak := k.monitor.belowPeak,
    afterTrigger := k.afterTrigger, mean := k.monitor.mean, phase := k.monitor.phase }

/-- The lowest-numbered FREE entry of the event table. -/
def Grouper.freeEvent (g : Grouper) : Option (Fin 8) := allEvents.find? fun i => (look g.events i).isNone

/-- Open a new event in the lowest-numbered FREE entry, closing one first when there is none (R56, R58). -/
def Core.openEvent (k : Core) (a : Arrival) : Core :=
  let k := if k.group.freeEvent.isNone then k.forceClosure else k
  match k.group.freeEvent with
  | none => k
  | some i =>
    let e := k.newEvent a
    let k := k.setEvent i (some e)
    k.setGroup { k.group with nextEvent := k.group.nextEvent + 1 }

/-- Join the candidate with the smallest T0, or open a new event (R51 steps 3 and 4). -/
def Core.joinOrOpen (k : Core) (a : Arrival) : Core :=
  match sortEvents Event.t0 (k.group.openEvents.filter fun ie => k.group.candidate a ie.2) with
  | [] => k.openEvent a
  | ie :: _ => k.setEvent ie.1 (some { ie.2 with members := ie.2.members ++ [k.memberFor a ie.2.t0] })

/-! ### Taking arrivals (R51, R52) -/

/-- An arrival is late (R52). -/
def Grouper.isLate (g : Grouper) (a : Arrival) : Bool :=
  match g.lastTaken with
  | some t => decide (a.time < t)
  | none => false

/-- Take one arrival: close the events it has passed, test lateness, join or open (R51). -/
def Core.takeArrival (k : Core) (a : Arrival) : Core :=
  let k := k.closeBelow a.time
  if k.group.isLate a then k.setGroup { k.group with late := satInc k.group.late }
  else (k.setGroup { k.group with lastTaken := some a.time }).joinOrOpen a

/-- Take from the head of the list every arrival below the horizon, then close the events the horizon has passed (R51,
R59). -/
def Core.takeArrivals (k : Core) : Core :=
  let below := fun a : Arrival => decide (a.time < k.streams.horizon)
  let taken := k.group.arrivals.takeWhile below
  let k := k.setGroup { k.group with arrivals := k.group.arrivals.dropWhile below }
  (taken.foldl Core.takeArrival k).closeBelow k.streams.horizon

/-- The grouper has something to do at a horizon advance. -/
def Core.groupDue (k : Core) : Bool :=
  (k.group.arrivals.any fun a => decide (a.time < k.streams.horizon))
    || (k.group.openEvents.any fun ie => decide (ie.2.windowEnd < k.streams.horizon))

/-- A detector offers an arrival; the answer is whether it was accepted (R50). -/
def Core.offerArrival (k : Core) (a : Arrival) : Core × Bool :=
  if a.time < k.streams.horizon then ((k.takeArrival a).closeBelow k.streams.horizon, true)
  else if k.group.arrivals.length < 64 then
    (k.setGroup { k.group with arrivals := insertArrival a k.group.arrivals }, true)
  else (k.setGroup { k.group with refused := satInc k.group.refused }, false)

/-- STOP's flush: every listed arrival is taken, then every open event closes FLUSHED (R65). -/
def Core.flushGroups (k : Core) : Core :=
  let listed := k.group.arrivals
  let k := k.setGroup { k.group with arrivals := [] }
  (listed.foldl Core.takeArrival k).closeEvents (fun _ => true) .flushed

end Sys2Proof.Machine
end

