-- ==== Sys2Proof/Machine/Detection.lean ====
section
/-! DEFINITION. Hit detection: what a detector does at one sample and with one block (R24 to R40, R116, R120). -/

namespace Sys2Proof.Machine

/-- A crossing against a threshold: at or above it after a sample below it (R27). -/
def crosses (threshold prev : Nat) (x : BitVec 16) : Bool :=
  decide (threshold ≤ magnitude x) && decide (prev < threshold)

/-! ### Opening a hit (R28 to R31) -/

/-- The flags set at opening (R29). -/
def Core.openFlags (k : Core) (c : Chan) (continuation : Bool) : HitFlags :=
  { continuation := continuation, notGrouped := false, belowPeak := k.monitor.belowPeak, afterTrigger := k.afterTrigger,
    frozenChannel := (k.tracker c).frozen, frozenDuring := false, stalledChannel := (k.tracker c).stalled,
    releasedEarly := false, unsettled := false }

/-- The hit context at opening, with the opening sample taken as the hit's first sample (R29, R32, R34). -/
def Core.openContext (k : Core) (c : Chan) (index t : Nat) (x : BitVec 16) (flags : HitFlags) (number : Num)
    (hold : HitHold) : HitContext :=
  let cs := k.settingsOf c
  { number := number, chan := c, arrival := t, openIndex := index, threshold := (k.detector c).threshold,
    peakWin := cs.peakWin, closeWin := cs.closeWin, guardLen := cs.guardLen, maxLen := cs.maxLen,
    preBlocks := cs.preBlocks, holdMode := cs.holdMode, mean := k.monitor.mean, phase := k.monitor.phase,
    flags := flags, hold := hold, peak := magnitude x, peakTime := t, settled := false, counts := 1, countsToPeak := 1,
    lastCrossing := t, energy := square x, snapshot := square x }

/-- Open a hit: its number, its arrival offered, its hold asked for, its context (R30, R31). The blocks of the stream
before the opening block number t / 32. -/
def Core.openHit (k : Core) (c : Chan) (index t : Nat) (x : BitVec 16) (continuation : Bool) : Core :=
  let number := k.hits.nextHit
  let flags := k.openFlags c continuation
  let cs := k.settingsOf c
  let ctx := k.openContext c index t x flags number (.noHold .noMode)
  let k := k.setHits { k.hits with nextHit := number + 1 }
  let o := k.offerArrival { chan := c, time := t, hit := number }
  let g := o.1.requestHold c
    { hit := number, index := index, before := t / 32, preBlocks := cs.preBlocks, maxLen := cs.maxLen,
      mode := cs.holdMode }
  g.1.setDetectorState c (.opened { ctx with hold := g.2, flags := { flags with notGrouped := !o.2 } })

/-! ### Measuring an open hit (R32 to R34) -/

/-- The hit's cut time is reached (R32 step 1). -/
def HitContext.atCut (h : HitContext) (t : Nat) : Bool := t == h.arrival + 32 * h.maxLen

/-- The sample ends the hit normally (R32 step 5, R35). -/
def HitContext.endsNormally (h : HitContext) (prev t : Nat) (x : BitVec 16) : Bool :=
  !crosses h.threshold prev x && t == h.lastCrossing + h.closeWin

/-- The sample cuts the hit: the cut time is reached and the sample does not end the hit normally (R32). -/
def HitContext.isCut (h : HitContext) (prev t : Nat) (x : BitVec 16) : Bool := h.atCut t && !h.endsNormally prev t x

/-- Step 2: a crossing is counted (R34). -/
def HitContext.countCrossing (h : HitContext) (crossing : Bool) (t : Nat) : HitContext :=
  if crossing then { h with counts := satInc h.counts, lastCrossing := t } else h

/-- A greater sample replaces the peak until it settles (R33). -/
def HitContext.raisePeak (h : HitContext) (t m : Nat) : HitContext :=
  if !h.settled && decide (h.peak < m) then { h with peak := m, peakTime := t, countsToPeak := h.counts } else h

/-- The peak settles P samples after it (R33). -/
def HitContext.settlePeak (h : HitContext) (t : Nat) : HitContext :=
  if t = h.peakTime + h.peakWin then { h with settled := true } else h

/-- Step 4: the running energy takes the sample, and a crossing takes a snapshot (R34). -/
def HitContext.addEnergy (h : HitContext) (crossing : Bool) (x : BitVec 16) : HitContext :=
  let e := h.energy + square x
  { h with energy := e, snapshot := if crossing then e else h.snapshot }

/-- Steps 2 to 4 of R32 at one sample. -/
def HitContext.measure (h : HitContext) (prev t : Nat) (x : BitVec 16) : HitContext :=
  let crossing := crosses h.threshold prev x
  (((h.countCrossing crossing t).raisePeak t (magnitude x)).settlePeak t).addEnergy crossing x

/-! ### One sample in each state -/

/-- The continuation end, removed at a sample later than it (R38). -/
def contEndAt (contEnd : Option Nat) (t : Nat) : Option Nat := contEnd.filter fun e => decide (t ≤ e)

/-- A sample taken in ARMED (R28). -/
def Core.takeArmed (k : Core) (c : Chan) (index : Nat) (contEnd : Option Nat) (t : Nat) (x : BitVec 16) : Core :=
  let d := k.detector c
  let cont := contEndAt contEnd t
  let continuation := cont.isSome && decide (d.threshold ≤ magnitude x)
  let k :=
    if continuation || crosses d.threshold d.prev x then k.openHit c index t x continuation
    else k.setDetectorState c (.armed cont)
  k.setPrev c (magnitude x)

/-- The state after a normal end: GUARD, or ARMED when G is 0 (R35). -/
def Core.enterGuard (k : Core) (c : Chan) (closing guardLen : Nat) : Core :=
  if guardLen = 0 then k.enterArmed c none else k.setDetectorState c (.guard (closing + guardLen))

/-- A sample taken in OPEN (R32, R35, R37). The cut's sample is taken again in ARMED. -/
def Core.takeOpen (k : Core) (c : Chan) (index : Nat) (h : HitContext) (t : Nat) (x : BitVec 16) : Core :=
  let prev := (k.detector c).prev
  if h.isCut prev t x then
    let contEnd := some (t + h.closeWin)
    ((k.closeHit h .cut t).enterArmed c contEnd).takeArmed c index contEnd t x
  else
    let h' := h.measure prev t x
    let k := (k.setDetectorState c (.opened h')).setPrev c (magnitude x)
    if h.endsNormally prev t x then (k.closeHit h' .normal t).enterGuard c t h'.guardLen else k

/-- A sample taken in GUARD at or before the guard end (R36). That ARMED is entered at the guard end also where that is a
block's last sample, and not at the first sample of the next block, is the model's own choice (log 36). -/
def Core.takeGuard (k : Core) (c : Chan) (guardEnd t : Nat) (x : BitVec 16) : Core :=
  let k := k.setPrev c (magnitude x)
  if t = guardEnd then k.enterArmed c none else k

/-- What a check context hears in a sample at or after the fire time (R116). -/
def CheckContext.hear (ctx : CheckContext) (crossing : Bool) (t m : Nat) : CheckContext :=
  { retained := if crossing && decide (ctx.retained.length < 4) then ctx.retained ++ [t] else ctx.retained
    overflow := ctx.overflow || (crossing && !decide (ctx.retained.length < 4))
    peak := max ctx.peak m }

/-- The check unit watches its source in FIRING: T0 found, or the fire timeout (R120). -/
def Core.watchSource (k : Core) (c : Chan) (crossing : Bool) (t : Nat) : Core :=
  if c = k.check.source ∧ k.check.state = .firing then
    if k.check.fireTime + 4096 ≤ t then k.finishCheck .noSource
    else if crossing ∧ k.check.fireTime ≤ t then
      (k.setCheck { k.check with t0 := some t }).setCheckState .listening
    else k
  else k

/-- A sample taken in CHECK (R43, R116, R120). -/
def Core.takeInCheck (k : Core) (c : Chan) (ctx : CheckContext) (t : Nat) (x : BitVec 16) : Core :=
  let d := k.detector c
  let crossing := crosses d.threshold d.prev x
  let ctx := if k.check.fireTime ≤ t then ctx.hear crossing t (magnitude x) else ctx
  ((k.setDetectorState c (.check ctx)).setPrev c (magnitude x)).watchSource c crossing t

/-- A detector takes one sample, under the rule for its state at that sample (R24). A guard that ended before the sample
has given way to ARMED (R36). -/
def Core.takeSample (k : Core) (c : Chan) (index t : Nat) (x : BitVec 16) : Core :=
  match (k.detector c).state with
  | .idle => k
  | .armed contEnd => k.takeArmed c index contEnd t x
  | .opened h => k.takeOpen c index h t x
  | .guard e => if e < t then (k.enterArmed c none).takeArmed c index none t x else k.takeGuard c e t x
  | .check ctx => k.takeInCheck c ctx t x

/-! ### One block (R24, R26, R39) -/

/-- What happens as a block begins: an ARMED detector computes its threshold (R25), a guard that has ended gives way to
ARMED (R36), and an open hit that takes the first sample reports the block to the write guard (R39, R75). That a first sample
at the cut time which ends the hit normally is reported too is the model's own choice (log 40). -/
def Core.beginBlock (k : Core) (c : Chan) (index start : Nat) (x : BitVec 16) : Core :=
  match (k.detector c).state with
  | .idle => k
  | .armed _ => k.computeThreshold c
  | .guard e => if e < start then k.enterArmed c none else k
  | .opened h => if h.isCut (k.detector c).prev start x then k else k.reportBlock c index h.hold
  | .check _ => k

/-- The detector is ARMED. -/
def Detector.isArmed (d : Detector) : Bool :=
  match d.state with
  | .armed _ => true
  | .idle | .opened _ | .guard _ | .check _ => false

/-- The samples of a block in order, and whether every one so far was taken in ARMED and stayed below the threshold in
force (R26). -/
def Core.takeSamples (c : Chan) (index : Nat) : List (BitVec 16) → Nat → Core × Bool → Core × Bool
  | [], _, kq => kq
  | x :: xs, t, (k, quiet) =>
    let k' := k.takeSample c index t x
    takeSamples c index xs (t + 1)
      (k', quiet && (k.detector c).isArmed && decide (magnitude x < (k'.detector c).threshold))

/-- The noise estimate after a quiet block of mean magnitude m; the division truncates toward zero (R26). -/
def newNoise (noise m : Nat) : Nat := ((noise : Int) + ((m : Int) - (noise : Int)).tdiv 16).toNat

def Core.updateNoise (k : Core) (c : Chan) (m : Nat) : Core :=
  k.setDetector c { k.detector c with noise := newNoise (k.detector c).noise m }

/-- A detector takes an analysed block with its ring index and the time of its first sample (R24). -/
def Core.takeBlock (k : Core) (c : Chan) (index start : Nat) (data : Block) : Core :=
  match (k.detector c).state with
  | .idle => k
  | .armed _ | .opened _ | .guard _ | .check _ =>
    let r := Core.takeSamples c index (samplesOf data) start (k.beginBlock c index start (sampleAt data 0), true)
    if r.2 then r.1.updateNoise c (meanMagnitude data) else r.1

/-- A skip is reported to the detector before the block is analysed (R40). -/
def Core.reportSkip (k : Core) (c : Chan) : Core :=
  match (k.detector c).state with
  | .idle => k
  | .opened h => ((k.closeHit h .broken (k.tracker c).time).enterArmed c none).setPrev c 0
  | .armed _ => (k.setDetectorState c (.armed none)).setPrev c 0
  | .guard _ => k.setPrev c 0
  | .check _ => k.setPrev c 0

end Sys2Proof.Machine
end

