-- ==== Sys2Proof/Machine/Streams.lean ====
section
/-! DEFINITION. The stream trackers: the position test, lead time, stalls and the horizon (R4 to R19). -/

namespace Sys2Proof.Machine

/-- The largest stream block count (R10). -/
def maxCount : Nat := 2 ^ 35 - 1

/-- The largest pressure block count (R10, R12). -/
def maxPressureCount : Nat := 2 ^ 32 - 1

/-! ### The position test (R5 to R10) -/

/-- What a tracker makes of a write. -/
inductive Position where
  | idle
  | partialWrite
  | origin
  | atLimit
  | inOrder
  | skip (d : Nat)
  | rewrite
  deriving DecidableEq, Repr

/-- The distance of ring index n from the expected index, modulo the ring size (R6). -/
def distance (size expected n : Nat) : Nat := (n + size - expected) % size

/-- The position of a full write in a TRACKING tracker; at the count limit no write is placed (R6, R10, log 15). -/
def trackPosition (size expected count limit n : Nat) : Position :=
  let d := distance size expected n
  if limit ≤ count then .atLimit
  else if d = 0 then .inOrder
  else if d < size / 2 then .skip d
  else .rewrite

/-- The position of a write: its tracker's state and its byte mask first (R4, R5, R9). -/
def positionOf (st : TrackerState) (full : Bool) (size expected count limit n : Nat) : Position :=
  match st with
  | .idle => .idle
  | .waiting => if full then .origin else .partialWrite
  | .tracking => if full then trackPosition size expected count limit n else .partialWrite

/-- The expected index that a fault names: present when the tracker is TRACKING (R13). -/
def expectedIn (st : TrackerState) (expected : Nat) : Option Nat :=
  match st with
  | .tracking => some expected
  | .idle | .waiting => none

/-- A SKIP, REWRITE or PARTIAL fault (R13). -/
def streamFault (kind : FaultKind) (place : FaultPlace) (n : Nat) (expected distance : Option Nat) (time : Nat) :
    FaultInfo :=
  { kind := kind, place := place, index := some n, expected := expected, distance := distance, time := some time,
    lead := none, addr := none }

/-! ### An acoustic tracker (stage 1 of R11) -/

/-- The fault a tracker raises for a write at ring index n. -/
def Core.acousticFault (k : Core) (c : Chan) (kind : FaultKind) (n : Nat) (d : Option Nat) : Core :=
  let t := k.tracker c
  k.raiseFault (streamFault kind (.acoustic c) n (expectedIn t.state t.expected) d t.time)

/-- The origin is set (R5). The count is recorded in stage 4. -/
def Core.setOrigin (k : Core) (c : Chan) (n : Nat) : Core :=
  k.setTracker c { k.tracker c with
    state := .tracking, origin := some n, expected := (n + 1) % k.ringSize c, count := 0 }

def Core.setExpected (k : Core) (c : Chan) (n : Nat) : Core :=
  k.setTracker c { k.tracker c with expected := n }

def Core.setCount (k : Core) (c : Chan) (m : Nat) : Core := k.setTracker c { k.tracker c with count := m }

/-- A skip of d blocks: fault, detector, count, and the block's start time unless the count would pass its limit
(R7, R10). -/
def Core.takeSkip (k : Core) (c : Chan) (n d : Nat) : Core × Option Nat :=
  let count := (k.tracker c).count
  let k := (k.acousticFault c .skip n (some d)).reportSkip c
  if maxCount ≤ count + d then (k.setCount c maxCount, none)
  else ((k.setCount c (count + d)).setExpected c ((n + 1) % k.ringSize c), some (32 * (count + d)))

/-- Stage 1: the tracker places the write; the answer is the block start time of an analysed block. -/
def Core.position (k : Core) (c : Chan) (n : Nat) (full : Bool) : Core × Option Nat :=
  let t := k.tracker c
  match positionOf t.state full (k.ringSize c) t.expected t.count maxCount n with
  | .idle => (k, none)
  | .partialWrite => (k.acousticFault c .partialWrite n none, none)
  | .origin => (k.setOrigin c n, some 0)
  | .atLimit => (k, none)
  | .inOrder => (k.setExpected c ((n + 1) % k.ringSize c), some t.time)
  | .skip d => k.takeSkip c n d
  | .rewrite => (k.acousticFault c .rewrite n none, none)

/-! ### The pressure tracker (R12) -/

def Core.setPressureTracker (k : Core) (t : PressureTracker) : Core := k.setStreams { k.streams with pressure := t }

/-- The fault the pressure tracker raises. -/
def Core.pressureFault (k : Core) (kind : FaultKind) (n : Nat) (d : Option Nat) : Core :=
  let t := k.streams.pressure
  k.raiseFault (streamFault kind .pressure n (expectedIn t.state t.expected) d t.count)

/-- The pressure tracker goes on past the block it has placed: expected index and count. -/
def Core.passPressure (k : Core) (n number : Nat) : Core :=
  k.setPressureTracker { k.streams.pressure with
    expected := (n + 1) % k.pressureEntry.size, count := number + 1 }

/-- A skip of d pressure blocks; no detector is involved. -/
def Core.takePressureSkip (k : Core) (n d : Nat) : Core × Option Nat :=
  let count := k.streams.pressure.count
  let k := k.pressureFault .skip n (some d)
  if maxPressureCount ≤ count + d then
    (k.setPressureTracker { k.streams.pressure with count := maxPressureCount }, none)
  else (k.passPressure n (count + d), some (count + d))

/-- The pressure tracker places a write; the answer is the pressure block number of an analysed block. -/
def Core.pressurePosition (k : Core) (n : Nat) (full : Bool) : Core × Option Nat :=
  let t := k.streams.pressure
  match positionOf t.state full k.pressureEntry.size t.expected t.count maxPressureCount n with
  | .idle => (k, none)
  | .partialWrite => (k.pressureFault .partialWrite n none, none)
  | .origin =>
    ((k.setPressureTracker { t with state := .tracking, origin := some n }).passPressure n 0, some 0)
  | .atLimit => (k, none)
  | .inOrder => (k.passPressure n t.count, some t.count)
  | .skip d => k.takePressureSkip n d
  | .rewrite => (k.pressureFault .rewrite n none, none)

/-! ### Lead time, stalls, horizon (R14 to R18) -/

/-- The largest stream time among enabled channels, 0 when there is none (R15). -/
def Core.leadTime (k : Core) : Nat :=
  allChans.foldl (fun acc c => if k.enabled c then max acc (k.tracker c).time else acc) 0

def Core.recomputeLead (k : Core) : Core := k.setStreams { k.streams with lead := k.leadTime }

def Core.setStalled (k : Core) (c : Chan) (b : Bool) : Core := k.setTracker c { k.tracker c with stalled := b }

/-- A channel is stalled: flag, status, fault, check mark, and a COUNTING ring freezes at once (R16, R103, R122). -/
def Core.stallChannel (k : Core) (c : Chan) : Core :=
  let fault : FaultInfo :=
    { kind := .stalled, place := .acoustic c, index := none, expected := none, distance := none,
      time := some (k.tracker c).time, lead := some k.streams.lead, addr := none }
  ((((k.setStalled c true).markDirty).raiseFault fault).markStalled c).freezeAtOnce c .stalled

/-- The stall test of a participating channel and the rejoin test of a stalled one (R16, R17). -/
def Core.stallTest (k : Core) (c : Chan) : Core :=
  let t := k.tracker c
  if k.enabled c then
    if t.stalled then
      if k.streams.lead ≤ t.time + 32 * (k.global.lagLimit / 2) then (k.setStalled c false).markDirty else k
    else if t.time + 32 * k.global.lagLimit < k.streams.lead then k.stallChannel c
    else k
  else k

/-- One pass of the stall and rejoin tests. R16 names no order among the channels; the model takes them ascending, which is
its own choice (log 35). -/
def Core.stallTests (k : Core) : Core := forChans Core.stallTest k

/-- The smaller of a time and the least one found so far. -/
def minTime (acc : Option Nat) (t : Nat) : Option Nat :=
  match acc with
  | none => some t
  | some m => some (min m t)

/-- The smallest stream time among participating channels, if one participates. -/
def Core.leastTime (k : Core) : Option Nat :=
  allChans.foldl (fun acc c => if k.participates c then minTime acc (k.tracker c).time else acc) none

/-- The horizon a recomputation gives (R18). -/
def Core.newHorizon (k : Core) : Nat :=
  match k.leastTime with
  | none => k.streams.horizon
  | some m => max k.streams.horizon m

def Core.setHorizon (k : Core) (h : Nat) : Core := k.setStreams { k.streams with horizon := h }

/-- The check ends COMPLETE once its window lies below the horizon (R121). -/
def Core.finishIfPassed (k : Core) : Core := if k.windowPassed then k.finishCheck .complete else k

/-- A raised horizon is handed on: to the sorter and grouper and to the check unit, either first (R19, R53, log 6). -/
def Core.handOnHorizon (k : Core) : Core :=
  if k.windowPassed && k.groupDue then
    let r := k.choose
    if r.1 then r.2.finishIfPassed.takeArrivals else r.2.takeArrivals.finishIfPassed
  else k.takeArrivals.finishIfPassed

/-- The horizon is recomputed; the check's window is also tested in the write that found T0 (R18, R19, R121). -/
def Core.recomputeHorizon (k : Core) (found : Bool) : Core :=
  let h := k.newHorizon
  let raised := decide (k.streams.horizon < h)
  let k := k.setHorizon h
  if raised then k.handOnHorizon
  else if found then k.finishIfPassed
  else k

/-- Stage 4 of R11 for an analysed block that began at a time: stream time, lead time, stall tests, horizon. -/
def Core.recordTime (k : Core) (c : Chan) (start : Nat) (found : Bool) : Core :=
  ((k.setCount c (start / 32 + 1)).recomputeLead.stallTests).recomputeHorizon found

end Sys2Proof.Machine
end

