-- ==== Sys2Proof/Machine/Pressure.lean ====
section
/-! DEFINITION. The pressure monitor: means, P_max, arming, phase, the pressure trigger and the freeze at the count (R91 to
R97, R104). -/

namespace Sys2Proof.Machine

/-- A new mean enters the FIFO of 16 (step 1 of R91) and P_max follows it (step 2, R92); the below-peak tolerance in force
governs it (R111). -/
def Monitor.enterMean (m : Monitor) (tolerance x : Nat) : Monitor :=
  { m with
    fifo := (if m.fifo.length < 16 then m.fifo else m.fifo.drop 1) ++ [x]
    pmax := max m.pmax x
    peakTol := tolerance }

/-- Step 3: an UNARMED state becomes ARMED when P_max is at least the arm level (R96). -/
def Monitor.arm (m : Monitor) (armLevel : Nat) : Monitor :=
  match m.arming with
  | .unarmed => if armLevel ≤ m.pmax then { m with arming := .armed } else m
  | .armed | .spent => m

/-- The mean W places before the newest, when the FIFO holds more than W means (R93). -/
def Monitor.compared (m : Monitor) (w : Nat) : Option Nat :=
  if m.fifo.length ≤ w then none else m.fifo[m.fifo.length - 1 - w]?

/-- The phase as it evaluates (R93). -/
def evalPhase (g : GlobalSettings) (newest : Nat) (compared : Option Nat) : Phase :=
  match compared with
  | none => .quiet
  | some old =>
    let delta : Int := (newest : Int) - (old : Int)
    if newest < g.armLevel then .quiet
    else if (g.riseStep : Int) ≤ delta then .rising
    else if delta ≤ -(g.fallStep : Int) then .falling
    else .steady

/-- The PHASE record of a change caused by pressure block `number` (R94). -/
def Core.phaseRecord (k : Core) (next : Phase) (number : Nat) : PhaseRecord :=
  { previous := k.monitor.phase, next := next, number := number, mean := k.monitor.mean,
    compared := k.monitor.compared k.global.window, window := k.global.window, pmax := k.monitor.pmax,
    arming := k.monitor.arming, horizon := k.streams.horizon, run := k.unit.run }

/-- Step 4: the phase is evaluated; a change marks the status dirty and forms a PHASE record (R93). -/
def Core.evaluatePhase (k : Core) (number : Nat) : Core :=
  let next := evalPhase k.global k.monitor.mean (k.monitor.compared k.global.window)
  if next = k.monitor.phase then k
  else ((k.setMonitor { k.monitor with phase := next }).markDirty).handSheddable (.phase (k.phaseRecord next number))

/-- The pressure trigger test (R97). -/
def Core.pressureTriggers (k : Core) : Bool :=
  k.monitor.arming == .armed && k.global.burstDrop != 0
    && decide (k.global.burstDrop ≤ k.monitor.pmax - k.monitor.mean)

/-- Step 5: a pressure trigger spends the arming state and is dispatched (R97, R99). -/
def Core.triggerTest (k : Core) : Core :=
  if k.pressureTriggers then
    ((k.setMonitor { k.monitor with arming := .spent }).dispatchTrigger .pressure).1
  else k

/-- The pressure ring, COUNTING, freezes at a write of this pressure block number (R104). -/
def Core.freezesAtCount (k : Core) (number : Nat) : Bool :=
  match k.monitor.post with
  | some p => k.guard.pFreeze.state == .counting && decide (p.freezeNumber ≤ number)
  | none => false

/-- Steps 1 to 6 of R91; the answer is whether the write freezes the pressure ring at its count. -/
def Core.takePressureBlock (k : Core) (number : Nat) (data : Block) : Core × Bool :=
  let k := k.setMonitor ((k.monitor.enterMean k.global.belowPeakTol (pressureMean data)).arm k.global.armLevel)
  let k := (k.evaluatePhase number).triggerTest
  if k.freezesAtCount number then (k.freezePressure .atCount, true) else (k, false)

end Sys2Proof.Machine
end

