-- ==== Sys2Proof/Machine/RingWrites.lean ====
section
/-! DEFINITION. Writes into acoustic and pressure rings, from acceptance to the guard's decision (R11, R12, R77 to R81). -/

namespace Sys2Proof.Machine

/-- A forwarded acquisition write sets its ring's last forwarded index (R101). -/
def Core.setLastForwarded (k : Core) (c : Chan) (n : Nat) : Core :=
  k.setGuard { k.guard with lastFwd := put k.guard.lastFwd c (some n) }

def Core.setPressureLastForwarded (k : Core) (n : Nat) : Core := k.setGuard { k.guard with pLastFwd := some n }

/-- A block that starts at this time freezes the COUNTING ring of its channel (R102). -/
def Core.freezesAtWrite (k : Core) (c : Chan) (start : Option Nat) : Bool :=
  match start, k.monitor.post with
  | some st, some p => (k.freezeOf c).state == .counting && decide (p.freezeTime ≤ st)
  | _, _ => false

/-- Stage 3 of R11: the freeze logic, then forward or absorb. `absorbs` and `held` are what the state at acceptance says
(R77, R78). The answer is whether the write is absorbed. That a ring which stage 2 of the same write made COUNTING may freeze
at this write is the model's own choice (log 43). -/
def Core.guardStage (k : Core) (c : Chan) (n : Nat) (absorbs : Bool) (held : Option (Fin 64)) (start : Option Nat) :
    Core × Bool :=
  let freezing := k.freezesAtWrite c start
  let k := if freezing then (k.freezeRing c .atWrite).allFrozenTest else k
  if absorbs || freezing then (k.countAbsorbed c held, true) else (k.setLastForwarded c n, false)

/-- Stage 2 of R11. -/
def Core.detectStage (k : Core) (c : Chan) (n : Nat) (start : Option Nat) (data : Block) : Core :=
  match start with
  | some st => k.takeBlock c n st data
  | none => k

/-- T0 was found between two states of the check unit (R120). -/
def foundSource (before after : CheckUnit) : Bool := before.state == .firing && after.state == .listening

/-- Stage 4 of R11. -/
def Core.timeStage (k : Core) (c : Chan) (start : Option Nat) (found : Bool) : Core :=
  match start with
  | some st => k.recordTime c st found
  | none => k

/-- An acquisition write into acoustic ring c at ring index n, stages 1 to 4 of R11; the answer is whether it is
absorbed. -/
def Core.acousticWrite (k : Core) (c : Chan) (n : Nat) (w : BlockWrite) : Core × Bool :=
  let placed := k.position c n (w.mask == fullMask)
  let heard := placed.1.detectStage c n placed.2 w.data
  let guarded := heard.guardStage c n (k.absorbsAcoustic c n) (k.holdAt c n) placed.2
  (guarded.1.timeStage c placed.2 (foundSource placed.1.check heard.check), guarded.2)

/-- A host write into an acoustic ring meets the guard alone (R78, R163). -/
def Core.hostAcousticWrite (k : Core) (c : Chan) (n : Nat) : Core × Bool :=
  if k.absorbsAcoustic c n then (k.countAbsorbed c (k.holdAt c n), true) else (k, false)

/-- What the pressure monitor makes of a placed pressure write. -/
def Core.monitorStage (k : Core) (number : Option Nat) (data : Block) : Core × Bool :=
  match number with
  | some m => k.takePressureBlock m data
  | none => (k, false)

/-- An acquisition write into the pressure ring at ring index n (R12, R80, log 32). -/
def Core.pressureWrite (k : Core) (n : Nat) (w : BlockWrite) : Core × Bool :=
  let placed := k.pressurePosition n (w.mask == fullMask)
  let heard := placed.1.monitorStage placed.2 w.data
  if k.streams.pressure.frozen || heard.2 then (heard.1, true) else (heard.1.setPressureLastForwarded n, false)

/-- A host write into the pressure ring is absorbed while the ring is frozen (R80). -/
def Core.hostPressureWrite (k : Core) : Core × Bool := (k, k.streams.pressure.frozen)

end Sys2Proof.Machine
end

