-- ==== Sys2Proof/Machine/Format.lean ====
section
/-! DEFINITION. The byte layouts that the part writes: records, the answer and status blocks, and the snapshot tables (R151
to R159). -/

namespace Sys2Proof.Machine

/-! ### Codes (R152) -/

def RunState.code : RunState → Nat
  | .stopped => 0
  | .listening => 1
  | .postTrigger => 2
  | .frozen => 3

def CheckState.code : CheckState → Nat
  | .idle => 0
  | .firing => 1
  | .listening => 2

def WriterMode.code : WriterMode → Nat
  | .placing => 0
  | .shedding => 1
  | .stalling _ _ => 2

def TrackerState.code : TrackerState → Nat
  | .idle => 0
  | .waiting => 1
  | .tracking => 2

def DetectorState.code : DetectorState → Nat
  | .idle => 0
  | .armed _ => 1
  | .opened _ => 2
  | .guard _ => 3
  | .check _ => 4

def Phase.code : Phase → Nat
  | .quiet => 0
  | .rising => 1
  | .falling => 2
  | .steady => 3

def Arming.code : Arming → Nat
  | .unarmed => 0
  | .armed => 1
  | .spent => 2

def TriggerSource.code : TriggerSource → Nat
  | .pressure => 1
  | .command => 2

def HitEnd.code : HitEnd → Nat
  | .normal => 1
  | .cut => 2
  | .broken => 3
  | .withdrawn => 4
  | .checkCut => 5

def NoHold.code : NoHold → Nat
  | .noMode => 1
  | .frozen => 2
  | .limit => 3
  | .table => 4
  | .released => 5

def EventEnd.code : EventEnd → Nat
  | .window => 1
  | .forced => 2
  | .flushed => 3

def CheckEnd.code : CheckEnd → Nat
  | .complete => 1
  | .noSource => 2
  | .abandoned => 3

def abandonCode : Option AbandonCause → Nat
  | none => 0
  | some .stop => 1
  | some .trigger => 2

def CheckResult.code : CheckResult → Nat
  | .source => 1
  | .valid => 2
  | .noPulse => 3
  | .noisy => 4
  | .stalled => 5
  | .disabled => 6
  | .notMeasured => 7

def FreezeEnd.code : FreezeEnd → Nat
  | .complete => 1
  | .cancelled => 2

def FreezeState.code : FreezeState → Nat
  | .none => 0
  | .counting => 1
  | .atWrite => 2
  | .disabled => 3
  | .stalled => 4
  | .atCount => 5
  | .withAcoustic => 6
  | .notFrozen => 7
  | .noRing => 8

def LossReason.code : LossReason → Nat
  | .sheddingEnded => 1
  | .stop => 2

def AnswerResult.code : AnswerResult → Nat
  | .done => 1
  | .busy => 2
  | .unknown => 3
  | .aborted => 4
  | .notApplied => 5
  | .wrongState => 6
  | .pending => 7
  | .layoutLocked => 8
  | .settingsChanged => 9
  | .fetchFailed => 10
  | .invalidSettings => 11
  | .invalidField => 12
  | .sourceUnavailable => 13

def TriggerOutcome.code : TriggerOutcome → Nat
  | .taken => 1
  | .queued => 2
  | .extra => 3

def SettingsTable.code : SettingsTable → Nat
  | .global => 1
  | .layout => 2
  | .channel => 3

def Record.kindCode : Record → Nat
  | .hit _ => 1
  | .event _ => 2
  | .phase _ => 3
  | .trigger _ => 4
  | .freeze _ => 5
  | .check _ => 6
  | .fault _ => 7
  | .loss _ => 8

def padKind : Nat := 9

/-! ### Fields (R151) -/

/-- A sample time field: a time that the format cannot carry gives an open value (log 7). -/
def timeField (o t : Nat) : Block := putField o 5 (if t < 2 ^ 40 - 1 then t else (Config.unfitTime t).toNat)

/-- A sample time field that may be absent: all ones. -/
def timeOptField (o : Nat) : Option Nat → Block
  | some t => timeField o t
  | none => putField o 5 (2 ^ 40 - 1)

/-- A ring index, range count or distance field, FFFFFF hex when absent. -/
def indexOptField (o : Nat) : Option Nat → Block
  | some n => putField o 3 n
  | none => putField o 3 (2 ^ 24 - 1)

/-- A yes-or-no byte. -/
def flagField (o : Nat) (b : Bool) : Block := putField o 1 (if b then 1 else 0)

/-- Flags packed from bit 0 up. -/
def packBits (bs : List Bool) : Nat := bs.foldr (fun b acc => (if b then 1 else 0) + 2 * acc) 0

/-! ### Records (R157 to R159) -/

/-- The slot header. -/
def slotHeader (kind span pos : Nat) (number : Num) : Block :=
  joinFields [putField 0 1 kind, putField 1 1 span, putField 2 1 pos, putField 4 4 number.toNat]

def HitFlags.pack (f : HitFlags) : Nat :=
  packBits [f.continuation, f.notGrouped, f.belowPeak, f.afterTrigger, f.frozenChannel, f.frozenDuring,
    f.stalledChannel, f.releasedEarly, f.unsettled]

/-- Hold number, no-hold reason and range of a HIT record. -/
def holdFields (h : HitHold) (range : Option (Nat × Nat)) : List Block :=
  match h with
  | .held n =>
    [putField 49 1 n.val, putField 50 1 0, indexOptField 51 (range.map Prod.fst), indexOptField 54 (range.map Prod.snd)]
  | .noHold r => [putField 49 1 255, putField 50 1 r.code, indexOptField 51 none, indexOptField 54 none]

def HitRecord.fields (r : HitRecord) : List Block :=
  [putField 8 4 r.number.toNat, putField 12 1 r.chan.val, putField 13 1 r.reason.code, putField 14 2 r.flags.pack,
    timeField 16 r.arrival, timeField 21 r.closing, putField 26 4 r.duration, putField 30 4 r.rise, putField 34 2 r.peak,
    putField 36 2 r.counts, putField 38 2 r.countsToPeak, putField 40 4 r.energy, putField 44 2 r.threshold,
    putField 46 3 r.openIndex, putField 57 2 r.mean, putField 59 1 r.phase.code]
  ++ holdFields r.hold r.range

def PhaseRecord.fields (r : PhaseRecord) : List Block :=
  [putField 8 1 r.previous.code, putField 9 1 r.next.code, putField 10 1 r.window, putField 11 1 r.arming.code,
    putField 12 1 r.run.code, flagField 13 r.compared.isSome, putField 14 2 r.mean, putField 16 2 (r.compared.getD 0),
    putField 18 2 r.pmax, putField 20 4 r.number, timeField 24 r.horizon]

/-- A member place; an unused one carries channel 255 and zeros. -/
def memberField (o : Nat) (m : Option Member) : Block :=
  match m with
  | some x => joinFields [putField o 1 x.chan.val, flagField (o + 1) x.stalled, putField (o + 2) 2 x.offset]
  | none => putField o 1 255

/-- n member places from a byte offset, holding the members from the i-th on. -/
def memberFields (o n i : Nat) (ms : List Member) : List Block :=
  (List.range n).map fun j => memberField (o + 4 * j) ms[i + j]?

def EventRecord.fields (r : EventRecord) : Nat → List Block
  | 0 =>
    [putField 8 4 r.event.number.toNat, putField 12 1 r.reason.code,
      putField 13 1 (packBits [r.event.belowPeak, r.event.afterTrigger]), putField 14 1 r.event.first.val,
      putField 15 1 r.event.members.length, putField 16 4 r.event.firstHit.toNat, timeField 20 r.event.t0,
      timeField 25 r.event.windowEnd, timeField 30 r.horizon, putField 35 1 r.event.phase.code,
      putField 36 2 r.event.slack, putField 38 2 r.event.mean, putField 40 2 r.refused, putField 42 2 r.late,
      putField 44 2 r.forced, putField 46 2 r.sparse]
    ++ memberFields 48 4 0 r.event.members
  | 1 => memberFields 8 14 4 r.event.members
  | _ => memberFields 8 14 18 r.event.members

def TriggerRecord.fields (r : TriggerRecord) : List Block :=
  [putField 8 1 r.source.code, putField 9 1 (packBits [r.queued, r.checkAbandoned]), putField 10 1 r.phase.code,
    putField 12 2 r.d, putField 14 2 r.dp, timeField 16 r.tt, timeField 21 r.lead, timeField 26 r.freezeTime,
    putField 32 4 r.tp, putField 36 2 r.mean, putField 38 2 r.pmax, putField 40 4 r.frozenAtOnce.toNat,
    putField 44 2 r.queuedExtra]

def FaultPlace.code : FaultPlace → Nat
  | .acoustic c => c.val
  | .pressure | .elsewhere => 255

/-- A fault's block address; absent it is 0, because a block address has no absent value (log 19). -/
def FaultInfo.addrField (i : FaultInfo) : Block := putField 44 5 ((i.addr.map BitVec.toNat).getD 0)

def FaultRecord.fields (r : FaultRecord) : List Block :=
  [putField 8 1 r.first.kind.code, putField 9 1 r.first.place.code, putField 10 1 r.furtherKinds.toNat,
    flagField 11 r.pressureMark, putField 12 2 r.furtherCount, indexOptField 14 r.first.index,
    indexOptField 17 r.first.expected, indexOptField 20 r.first.distance, timeOptField 24 r.first.time,
    timeOptField 29 r.first.lead, timeField 34 r.horizon, putField 40 4 r.furtherChans.toNat, r.first.addrField]

/-- Channel counts of two bytes each, for the channels from one on, from a byte offset. -/
def countFields (o start n : Nat) (v : Vector Nat 32) : List Block :=
  (List.range n).map fun j => putField (o + 2 * j) 2 (v[start + j]?.getD 0)

/-- The slots of a LOSS record (R159). That bytes 20 to 23 of slot 0 are 0 while the first-loss fields are absent is the
model's own choice (log 38). -/
def LossRecord.fields (r : LossRecord) : Nat → List Block
  | 0 =>
    [putField 8 1 r.reason.code, flagField 9 r.loss.first.isSome, putField 10 2 r.loss.events, putField 12 2 r.loss.phases,
      putField 14 2 r.loss.onArrival, putField 16 2 r.loss.stalls, putField 18 2 r.loss.expiries,
      putField 20 4 ((r.loss.first.map fun f => f.2.toNat).getD 0), timeOptField 24 (r.loss.first.map Prod.fst),
      timeField 29 r.horizon]
    ++ countFields 40 0 12 r.loss.hits
  | _ => countFields 8 12 20 r.loss.hits

/-- Freeze state and freeze point in one four-byte entry. -/
def freezeField (o : Nat) (f : RingFreeze) : Block := putField o 1 f.state.code ||| indexOptField (o + 1) f.point

def freezeFields (o start n : Nat) (v : Vector RingFreeze 32) : List Block :=
  (List.range n).map fun j => freezeField (o + 4 * j) (v[start + j]?.getD RingFreeze.reset)

def FreezeRecord.fields (r : FreezeRecord) : Nat → List Block
  | 0 =>
    [putField 8 1 r.reason.code, putField 9 1 r.source.code, putField 10 1 r.pRing.state.code, putField 12 2 r.extra,
      indexOptField 14 r.pRing.point, putField 17 4 r.pCount, timeField 21 r.tt, timeField 26 r.f, timeField 31 r.horizon]
    ++ freezeFields 40 0 6 r.rings
  | 1 => freezeFields 8 6 14 r.rings
  | _ => freezeFields 8 20 12 r.rings

/-- A channel's result entry: delay, result code, peak heard. -/
def CheckEntry.word (e : CheckEntry) : Nat := e.delay.getD 0 + e.result.code * 2 ^ 12 + e.peak * 2 ^ 16

/-- A channel's nibble: retained crossing count and overflow mark. -/
def CheckEntry.nibble (e : CheckEntry) : Nat := e.retained + (if e.overflow then 8 else 0)

def entryFields (o start n : Nat) (v : Vector CheckEntry 32) : List Block :=
  (List.range n).map fun j => putField (o + 4 * j) 4 ((v[start + j]?.map CheckEntry.word).getD 0)

def nibbleFields (v : Vector CheckEntry 32) : List Block :=
  (List.range 16).map fun i =>
    putField (32 + i) 1
      ((v[2 * i]?.map CheckEntry.nibble).getD 0 + 16 * (v[2 * i + 1]?.map CheckEntry.nibble).getD 0)

def CheckRecord.fields (r : CheckRecord) : Nat → List Block
  | 0 =>
    [putField 8 1 r.reason.code, putField 9 1 (abandonCode r.cause), putField 10 1 r.source.val,
      putField 11 1 (packBits [r.update, r.pathUpdated, r.triggerQueued]), putField 12 2 r.window,
      timeField 14 r.fireTime, timeOptField 19 r.t0, timeField 24 r.horizon]
    ++ nibbleFields r.entries ++ entryFields 48 0 4 r.entries
  | 1 => entryFields 8 4 14 r.entries
  | _ => entryFields 8 18 14 r.entries

/-- The fields of a record in the slot at a position. -/
def Record.fields (r : Record) (pos : Nat) : List Block :=
  match r with
  | .hit r => r.fields
  | .event r => r.fields pos
  | .phase r => r.fields
  | .trigger r => r.fields
  | .freeze r => r.fields pos
  | .check r => r.fields pos
  | .fault r => r.fields
  | .loss r => r.fields pos

/-- The slot of a record at a position. -/
def recordSlot (r : Record) (number : Num) (pos : Nat) : Block :=
  slotHeader r.kindCode r.span pos number ||| joinFields (r.fields pos)

/-- A slot of a PAD (R157). -/
def padSlot (length pos : Nat) (number : Num) : Block := slotHeader padKind length pos number

/-- The ring slot at which the record of a placement begins: slot 0 of the ring after a PAD (R138). -/
def Placement.base (p : Placement) : Nat := if p.pad = 0 then p.start else 0

/-- Ring slot and content of the i-th write of a placement: PAD slots, continuation slots, slot 0 (R138). -/
def Placement.write (p : Placement) (i : Nat) : Nat × Block :=
  if i < p.pad then (p.start + i, padSlot p.pad i p.number)
  else if i + 1 < p.writes then
    (p.base + (i - p.pad) + 1, recordSlot p.record p.number (i - p.pad + 1))
  else (p.base, recordSlot p.record p.number 0)

/-! ### The answer block (R154) -/

/-- The fields an answer carries besides tag, code and result. -/
def AnswerDetail.fields : AnswerDetail → List Block
  | .plain => []
  | .invalid table entry offset => [putField 8 1 table.code, putField 9 1 entry, putField 10 1 offset]
  | .trigger outcome extra => [putField 12 1 outcome.code, putField 13 2 extra]
  | .thaw extra => [putField 13 2 extra]
  | .release holds absorbed => [putField 12 1 holds, putField 16 4 absorbed]
  | .check fireTime => [timeField 12 fireTime]

def resultCode : Option AnswerResult → Nat
  | some r => r.code
  | none => 0

/-- Block 2: an answer and the refusal word. -/
def answerBlock (a : Answer) (r : RefusalWord) : Block :=
  joinFields ([putField 0 4 a.tag.toNat, putField 4 1 a.code.toNat, putField 5 1 (resultCode a.result)] ++ a.detail.fields
    ++ [putField 48 4 r.tag.toNat, putField 52 1 r.code.toNat,
      putField 53 1 (if r.busy then AnswerResult.busy.code else 0)])

/-! ### The status block (R154) -/

def applyCode : Byte := 1
def snapshotCode : Byte := 8

/-- The command code shown: of the running command, or else of the newest answer due, 0 when READY (R174). -/
def CommandUnit.shownCode (u : CommandUnit) : Byte :=
  match u.running with
  | some (.apply _ _ _) => applyCode
  | some (.snapshot _ _ _ _) => snapshotCode
  | none => (u.due.getLast?.map Answer.code).getD 0

/-- Block 3: the status fields as they stand. -/
def Core.statusBlock (k : Core) : Block :=
  joinFields
    [putField 0 1 k.unit.run.code, flagField 1 k.unit.busy, putField 2 1 k.check.state.code,
      putField 3 1 k.writer.mode.code, flagField 4 k.writer.halted, flagField 5 k.unit.applied,
      putField 6 1 k.monitor.phase.code, putField 7 1 k.unit.shownCode.toNat, putField 8 1 k.unit.pending.toNat,
      putField 9 1 k.enabledCauses.toNat, putField 10 2 k.writer.produce, putField 12 2 k.writer.drain,
      putField 14 2 k.writer.occupancy, putField 16 4 k.writer.nextNumber.toNat, timeField 20 k.streams.horizon,
      timeField 25 k.monitor.tt, putField 30 2 k.monitor.mean, putField 32 2 k.monitor.pmax,
      putField 34 1 k.holdsInUse, putField 35 1 k.group.openEvents.length, putField 36 1 k.group.arrivals.length,
      putField 38 2 k.group.sparse, putField 40 4 k.stalledSet.toNat]

/-! ### Snapshot tables (R155, R156) -/

/-- The 64-bit field of a channel status entry. -/
def Core.statusWord (k : Core) (c : Chan) : Nat :=
  let t := k.tracker c
  t.count % 16384 + k.reservedTotal c * 2 ^ 14 + (if t.origin.isSome then t.expected else 0) * 2 ^ 33
    + t.state.code * 2 ^ 53 + (k.detector c).state.code * 2 ^ 55

/-- The status entry of a channel at a byte offset. -/
def Core.statusEntry (k : Core) (c : Chan) (o : Nat) : Block :=
  let t := k.tracker c
  let d := k.detector c
  joinFields
    [putField o 2 t.absorbed, putField (o + 2) 2 t.faults, putField (o + 4) 2 (d.threshold + (if t.stalled then 32768 else 0)),
      putField (o + 6) 2 (d.noise + (if t.frozen then 32768 else 0)), putField (o + 8) 8 (k.statusWord c)]

/-- The i-th block of the channel status table: channels 4i to 4i + 3. -/
def Core.channelBlock (k : Core) (i : Nat) : Block :=
  joinFields ((List.range 4).filterMap fun j => (chanOf (4 * i + j)).map fun c => k.statusEntry c (16 * j))

/-- A row of the path table. -/
def rowBlock (row : Vector (BitVec 12) 32) : Block :=
  joinFields (allChans.map fun j => putField (2 * j.val) 2 (look row j).toNat)

/-- The i-th block of the path snapshot: row i. -/
def Core.pathBlock (k : Core) (i : Nat) : Block :=
  match chanOf i with
  | some f => rowBlock (look k.group.path f)
  | none => 0

/-- The first page block and the number of blocks of a snapshot (R182). -/
def SnapshotTarget.first : SnapshotTarget → Nat
  | .channels => 4
  | .paths => 34

def SnapshotTarget.length : SnapshotTarget → Nat
  | .channels => 8
  | .paths => 32

/-- The content of the i-th write of a snapshot, as the values stand. -/
def Core.snapshotBlock (k : Core) (t : SnapshotTarget) (i : Nat) : Block :=
  match t with
  | .channels => k.channelBlock i
  | .paths => k.pathBlock i

end Sys2Proof.Machine
end

