-- ==== Sys2Proof/Machine/Settings.lean ====
section
/-! DEFINITION. The settings that APPLY reads, their validation and the locked settings (R156, R179, R180). -/

namespace Sys2Proof.Machine

/-! ### Reading the settings blocks (R152, R156) -/

/-- Control page block b of the fetched data, whose first block is page block 12. -/
def fetched (data : List Block) (b : Nat) : Block := data[b - 12]?.getD 0

def readPolicy (b : Block) : RingPolicy := if field b 0 1 = 0 then .shed else .stall

def readTriggerInCheck (b : Block) : TriggerInCheck := if field b 1 1 = 0 then .queue else .abandon

def readGlobal (b : Block) : GlobalSettings :=
  { policy := readPolicy b, triggerInCheck := readTriggerInCheck b, minMembers := field b 2 1, window := field b 3 1,
    tenure := field b 4 1, enabledCauses := byteAt b 5, stallLimit := field b 6 2, attentionMark := field b 8 2,
    resumeMark := field b 10 2, lagLimit := field b 12 2, slack := field b 14 2, armLevel := field b 16 2,
    burstDrop := field b 18 2, riseStep := field b 20 2, fallStep := field b 22 2, belowPeakTol := field b 24 2,
    postTrigger := field b 26 2, postTriggerP := field b 28 2 }

/-- Layout entry i: eight entries of 8 bytes to a block, from block 13. -/
def readLayout (data : List Block) (i : Nat) : LayoutEntry :=
  let b := fetched data (13 + i / 8)
  let o := 8 * (i % 8)
  { base := field b o 5, log := field b (o + 5) 1, valid := yes b (o + 6) }

def readMode (b : Block) (o : Nat) : ThresholdMode := if field b o 1 = 0 then .fixed else .floating

def readHoldMode (b : Block) (o : Nat) : HoldMode :=
  match field b o 1 with
  | 0 => .noHolds
  | 1 => .onRead
  | _ => .onCommand

/-- Channel settings j: two entries of 32 bytes to a block, from block 18. -/
def readChannel (data : List Block) (j : Nat) : ChannelSettings :=
  let b := fetched data (18 + j / 2)
  let o := 32 * (j % 2)
  { enabled := yes b o, mode := readMode b (o + 1), threshold := field b (o + 2) 2, margin := field b (o + 4) 1,
    preBlocks := field b (o + 5) 1, holdMode := readHoldMode b (o + 6), peakWin := field b (o + 8) 2,
    closeWin := field b (o + 10) 2, guardLen := field b (o + 12) 2, maxLen := field b (o + 14) 2 }

def readSettings (data : List Block) : Settings :=
  { global := readGlobal (fetched data 12), layout := tabulate fun i => readLayout data i.val,
    channels := tabulate fun c => readChannel data c.val }

/-- A path table entry as loaded: 4095 or more is NEVER (R53). -/
def loadPath (v : Nat) : BitVec 12 := if v < 4095 then BitVec.ofNat 12 v else never

def readPaths (data : List Block) : Vector (Vector (BitVec 12) 32) 32 :=
  tabulate fun f => tabulate fun j => loadPath (field (fetched data (34 + f.val)) (2 * j.val) 2)

/-! ### Validation (R180) -/

/-- A failing field: its table, entry and byte offset. -/
structure BadField where
  table  : SettingsTable
  entry  : Nat
  offset : Nat
  deriving DecidableEq, Repr

/-- One test: what it reports when it fails, and whether it passes. -/
abbrev Test := BadField × Bool

def layoutTest (i offset : Nat) (ok : Bool) : Test := ({ table := .layout, entry := i, offset := offset }, ok)
def channelTest (j offset : Nat) (ok : Bool) : Test := ({ table := .channel, entry := j, offset := offset }, ok)
def globalTest (offset : Nat) (ok : Bool) : Test := ({ table := .global, entry := 0, offset := offset }, ok)

def allEntries : List (Fin 34) := List.finRange 34

/-- The power of two of an entry's size lies in its range. -/
def sizeOk (i log : Nat) : Bool :=
  if i < 32 then decide (10 ≤ log) && decide (log ≤ 20) else decide (6 ≤ log) && decide (log ≤ 16)

/-- Step 1 for one entry: size, then base. -/
def entryTests (st : Settings) (i : Fin 34) : List Test :=
  let e := look st.layout i
  if e.valid then
    [layoutTest i.val 5 (sizeOk i.val e.log),
      layoutTest i.val 0 (decide (e.base < 2 ^ 34) && decide (e.base % e.size = 0))]
  else []

/-- Two regions, each a base and a size, have no block in common. -/
def disjoint (a m b n : Nat) : Bool := decide (a + m ≤ b) || decide (b + n ≤ a)

/-- The region of an entry shares a block with no lower-numbered valid entry. -/
def clearOfLower (st : Settings) (i : Fin 34) : Bool :=
  let e := look st.layout i
  allEntries.all fun j =>
    let f := look st.layout j
    !(decide (j.val < i.val) && f.valid) || disjoint e.base e.size f.base f.size

/-- Step 2 for one entry: no overlap with the control page or a lower-numbered region. -/
def overlapTests (pageBase : Nat) (st : Settings) (i : Fin 34) : List Test :=
  let e := look st.layout i
  if e.valid then [layoutTest i.val 0 (disjoint e.base e.size pageBase 128 && clearOfLower st i)] else []

/-- Pre-blocks and maximum length fit a quarter of the ring, when holds are asked for. -/
def holdFits (cs : ChannelSettings) (e : LayoutEntry) : Bool :=
  cs.holdMode == .noHolds || decide (cs.preBlocks + cs.maxLen ≤ e.size / 4)

/-- The tests of a channel whose layout entry is valid. -/
def ringChannelTests (j : Nat) (cs : ChannelSettings) (e : LayoutEntry) : List Test :=
  [channelTest j 2 (decide (1 ≤ cs.threshold) && decide (cs.threshold ≤ 32767)),
    channelTest j 4 (decide (9 ≤ cs.margin) && decide (cs.margin ≤ 64)),
    channelTest j 8 (decide (1 ≤ cs.peakWin)),
    channelTest j 10 (decide (2 ≤ cs.closeWin)),
    channelTest j 14 (decide (1 ≤ cs.maxLen) && decide (cs.maxLen ≤ 4096)),
    channelTest j 5 (decide (cs.preBlocks ≤ 64)),
    channelTest j 5 (holdFits cs e)]

/-- Step 3 for one channel. -/
def channelTests (st : Settings) (c : Chan) : List Test :=
  let cs := look st.channels c
  let e := look st.layout (ringEntryIndex c)
  channelTest c.val 0 (!cs.enabled || e.valid) :: (if e.valid then ringChannelTests c.val cs e else [])

/-- D is below the size of every valid acoustic ring. -/
def delayFits (st : Settings) : Bool :=
  allChans.all fun c =>
    let e := look st.layout (ringEntryIndex c)
    !e.valid || decide (st.global.postTrigger < e.size)

/-- The resume mark is no more than S - 13 when the record ring is valid. -/
def resumeFits (st : Settings) : Bool :=
  let e := look st.layout 33
  !e.valid || decide (st.global.resumeMark + 13 ≤ e.size)

/-- Step 4. -/
def globalTests (st : Settings) : List Test :=
  let g := st.global
  [globalTest 26 (delayFits st),
    globalTest 10 (resumeFits st),
    globalTest 12 (decide (4 ≤ g.lagLimit) && decide (g.lagLimit ≤ 4096)),
    globalTest 2 (decide (1 ≤ g.minMembers) && decide (g.minMembers ≤ 8)),
    globalTest 4 (decide (1 ≤ g.tenure) && decide (g.tenure ≤ 64)),
    globalTest 6 (decide (1 ≤ g.stallLimit)),
    globalTest 3 (decide (1 ≤ g.window) && decide (g.window ≤ 15)),
    globalTest 28 (decide (g.postTriggerP ≤ 4095)),
    globalTest 14 (decide (g.slack ≤ 4095))]

/-- Every test, in the order in which validation makes them. -/
def allTests (pageBase : Nat) (st : Settings) : List Test :=
  allEntries.flatMap (entryTests st) ++ allEntries.flatMap (overlapTests pageBase st)
    ++ allChans.flatMap (channelTests st) ++ globalTests st

/-- The first failing field, if one fails. -/
def firstBad (pageBase : Nat) (st : Settings) : Option BadField :=
  ((allTests pageBase st).find? fun t => !t.2).map Prod.fst

/-! ### Locked settings (R179) -/

/-- A layout entry is changed: its validity differs, or both are valid and base or size differs. -/
def LayoutEntry.changed (old new : LayoutEntry) : Bool :=
  old.valid != new.valid || (old.valid && new.valid && (old.base != new.base || old.log != new.log))

/-- New settings change a locked setting of the active ones. -/
def Core.changesLocked (k : Core) (st : Settings) : Bool :=
  (allEntries.any fun i => (k.layoutEntry i).changed (look st.layout i)) || k.global.policy != st.global.policy
    || k.global.tenure != st.global.tenure

end Sys2Proof.Machine
end

