-- ==== Sys2Proof/Machine/Activation.lean ====
section
/-! DEFINITION. The decision of an APPLY and the activation of its settings (R14, R22, R41, R87, R103, R122, R149, R179,
R181). -/

namespace Sys2Proof.Machine

/-- The new settings stand, with the path table if the APPLY brings one; the applied flag is set (R53, R181). -/
def Core.installSettings (k : Core) (st : Settings) (paths : Option (Vector (Vector (BitVec 12) 32) 32)) : Core :=
  let k := k.setUnit { k.unit with settings := some st, applied := true, dirty := true }
  k.setGroup { k.group with path := paths.getD k.group.path }

/-- The origin, expected index and block count of a tracker whose layout entry changed are cleared (R22). -/
def Core.clearPosition (k : Core) (c : Chan) : Core :=
  k.setTracker c { k.tracker c with origin := none, expected := 0, count := 0 }

def Core.clearPressurePosition (k : Core) : Core :=
  k.setPressureTracker { k.streams.pressure with origin := none, expected := 0, count := 0 }

/-- A channel's layout entry changed: its tracker is cleared and its holds are released (R22, R87). -/
def Core.relayChannel (k : Core) (c : Chan) : Core :=
  let k := k.clearPosition c
  k.releaseList (k.channelHolds c)

/-- The record ring changed: the placement is abandoned, the ring indices become 0 and the exit test is made (R149). -/
def Core.relayRecordRing (k : Core) : Core :=
  let k := k.abandonPlacement
  (k.setWriter { k.writer with produce := 0, drain := 0, occupancy := 0 }).exitTest

/-- The layout entries of two settings differ at an index. -/
def Core.entryChanged (old : Core) (st : Settings) (i : Fin 34) : Bool := (old.layoutEntry i).changed (look st.layout i)

/-- The effects of the changed layout entries; `old` is the state before the activation. -/
def Core.relay (k old : Core) (st : Settings) : Core :=
  let k := forChans (fun k c => if old.entryChanged st (ringEntryIndex c) then k.relayChannel c else k) k
  let k := if old.entryChanged st 32 then k.clearPressurePosition else k
  if old.entryChanged st 33 then k.relayRecordRing else k

/-- A stall ends when the ring policy becomes SHED (R145). -/
def Core.followPolicy (k old : Core) : Core :=
  match old.global.policy, k.global.policy with
  | .stall, .shed => k.endStall
  | .stall, .stall | .shed, _ => k

/-- A stalled flag is cleared without a fault (R14). -/
def Core.clearStalled (k : Core) (c : Chan) : Core :=
  if (k.tracker c).stalled then (k.setStalled c false).markDirty else k

/-- The activation disables a channel (R14, R41, R103, R122). That its open hit closes before its COUNTING ring freezes, so
that the hit's record precedes the FREEZE record and lacks FROZEN_DURING, is the model's own choice (log 37). -/
def Core.disableChannel (k : Core) (c : Chan) : Core :=
  (((k.withdraw c).clearStalled c).markDisabled c).freezeAtOnce c .disabled

/-- The activation enables a channel; only in a run does its detector leave IDLE (R41). -/
def Core.enableChannel (k : Core) (c : Chan) : Core :=
  if k.unit.run = .stopped then k
  else if k.checkRuns then (k.enterCheck c).setPrev c 0
  else (k.enterArmed c none).setPrev c 0

/-- A change of the enabled set reaches every channel that it disables, then every channel that it enables, each ascending
(log 37). -/
def Core.changeEnabled (k old : Core) : Core :=
  let k := forChans (fun k c => if old.enabled c && !k.enabled c then k.disableChannel c else k) k
  forChans (fun k c => if !old.enabled c && k.enabled c then k.enableChannel c else k) k

/-- A check whose source is disabled while FIRING ends NO_SOURCE (R122). -/
def Core.followSource (k : Core) : Core :=
  if k.check.state = .firing ∧ k.enabled k.check.source = false then k.finishCheck .noSource else k

/-- The enabled set differs. -/
def Core.enabledChanged (k old : Core) : Bool := allChans.any fun c => old.enabled c != k.enabled c

/-- Lead time, stall tests and horizon after an activation taken in a run (R14, R15, R18). -/
def Core.followParticipation (k old : Core) : Core :=
  if k.unit.run = .stopped then k
  else if k.enabledChanged old then k.recomputeLead.stallTests.recomputeHorizon false
  else if old.global.lagLimit ≠ k.global.lagLimit then k.stallTests
  else k

/-- An activation (R181), its effects in the order of log 16. -/
def Core.activate (k : Core) (st : Settings) (paths : Option (Vector (Vector (BitVec 12) 32) 32)) : Core :=
  let k1 := ((k.installSettings st paths).relay k st).followPolicy k
  ((k1.changeEnabled k).followSource).followParticipation k

/-- The running command ends with an answer (R174). -/
def Core.endRunning (k : Core) (a : Answer) : Core := (k.setUnit { k.unit with running := none }).formAnswer a

def applyAnswer (tag : Num) (r : AnswerResult) (d : AnswerDetail) : Answer :=
  { tag := tag, code := applyCode, result := some r, detail := d }

def BadField.detail (b : BadField) : AnswerDetail := .invalid b.table b.entry b.offset

/-- The fetch has ended: the first case of R179 that applies. -/
def Core.decideApply (k : Core) (pageBase : Nat) (tag : Num) (withPaths : Bool) (f : Fetch) : Core :=
  let st := readSettings f.data
  if f.failed then k.endRunning (applyAnswer tag .fetchFailed .plain)
  else if k.unit.disturbed then k.endRunning (applyAnswer tag .settingsChanged .plain)
  else if k.unit.run ≠ .stopped ∧ k.changesLocked st then k.endRunning (applyAnswer tag .layoutLocked .plain)
  else
    match firstBad pageBase st with
    | some b => k.endRunning (applyAnswer tag .invalidSettings b.detail)
    | none =>
      (k.activate st (if withPaths then some (readPaths f.data) else none)).endRunning (applyAnswer tag .done .plain)

/-! ### The fetch (R178) -/

/-- The reads of a fetch: first page block and number of blocks. -/
def fetchReads (withPaths : Bool) : List (Nat × Fin 8) :=
  if withPaths then [(12, 7), (20, 7), (28, 7), (36, 7), (44, 7), (52, 7), (60, 5)]
  else [(12, 7), (20, 7), (28, 5)]

/-- The last page block of the fetched range. -/
def fetchLast (withPaths : Bool) : Nat := if withPaths then 65 else 33

/-- A fetch read completes: its data is taken, or the fetch fails. -/
def Fetch.receive (f : Fetch) : Option (List Block) → Fetch
  | some lines => { f with completed := f.completed + 1, data := f.data ++ lines }
  | none => { f with completed := f.completed + 1, failed := true }

/-- Every read issued has completed and no further one will be presented. -/
def Fetch.over (f : Fetch) (withPaths : Bool) : Bool :=
  f.completed == f.granted && (f.failed || f.granted == (fetchReads withPaths).length)

/-- The completion of a fetch read; after the last one the APPLY is decided. -/
def Core.fetchCompleted (k : Core) (pageBase : Nat) (lines : Option (List Block)) : Core :=
  match k.unit.running with
  | some (.apply tag withPaths f) =>
    let f := f.receive lines
    if f.over withPaths then k.decideApply pageBase tag withPaths f
    else k.setUnit { k.unit with running := some (.apply tag withPaths f) }
  | some (.snapshot _ _ _ _) | none => k

/-- The completion of the APPLY command's own write starts the fetch. -/
def Core.startFetch (k : Core) : Core :=
  match k.unit.running with
  | some (.apply tag withPaths f) =>
    k.setUnit { k.unit with running := some (.apply tag withPaths { f with started := true }) }
  | some (.snapshot _ _ _ _) | none => k

/-- A write into the control page is reported: within the fetched range of the running APPLY it sets the disturbance
mark (R164, R178). -/
def Core.reportPageWrite (k : Core) (b : Nat) : Core :=
  match k.unit.running with
  | some (.apply _ withPaths _) =>
    if 12 ≤ b ∧ b ≤ fetchLast withPaths then k.setUnit { k.unit with disturbed := true } else k
  | some (.snapshot _ _ _ _) | none => k

end Sys2Proof.Machine
end

