-- ==== Sys2Proof/Machine/Commands.lean ====
section
/-! DEFINITION. The command unit: taking, refusing and answering a command (R173 to R177, R182, R183). -/

namespace Sys2Proof.Machine

/-- The answer to the command in a command block. -/
def answerTo (b : Block) (r : AnswerResult) (d : AnswerDetail) : Answer :=
  { tag := commandTag b, code := commandCode b, result := some r, detail := d }

def Core.answer (k : Core) (b : Block) (r : AnswerResult) (d : AnswerDetail) : Core := k.formAnswer (answerTo b r d)

def Core.refuse (k : Core) (b : Block) (r : AnswerResult) : Core := k.answer b r .plain

/-- The strobe is inactive at START, STOP and CLEAR (R128, log 30). -/
def Core.endStrobe (k : Core) : Core := k.setCheck { k.check with strobe := false }

/-! ### BUSY (R173) -/

/-- A command is refused BUSY: refusal word, refusal mark, REFUSED. -/
def Core.refuseBusy (k : Core) (b : Block) : Core :=
  (k.setUnit { k.unit with
    refusal := { tag := commandTag b, code := commandCode b, busy := true }, refusalMark := true }).raise .refused

/-! ### START (R175) -/

/-- An acoustic tracker at START (R21). -/
def startTracker (hasRing : Bool) : Tracker :=
  { Tracker.reset with state := if hasRing then .waiting else .idle }

def startPressureTracker (valid : Bool) : PressureTracker :=
  { PressureTracker.reset with state := if valid then .waiting else .idle }

def Core.startStreams (k : Core) : Core :=
  k.setStreams
    { chan := tabulate fun c => startTracker (k.hasRing c), pressure := startPressureTracker k.pressureEntry.valid,
      lead := 0, horizon := 0 }

/-- A detector at START: ARMED with threshold in force when its channel is enabled, else IDLE (R48). -/
def startDetector (d : Detector) (cs : ChannelSettings) : Detector :=
  if cs.enabled then { state := .armed none, threshold := thresholdFor cs 0, noise := 0, prev := 0 }
  else { state := .idle, threshold := d.threshold, noise := 0, prev := 0 }

def Core.startDetectors (k : Core) : Core :=
  k.setHits { det := tabulate fun c => startDetector (k.detector c) (k.settingsOf c), nextHit := 0 }

/-- The freeze states and last forwarded indices at START; the hold table is kept (R88, R114). -/
def Core.startGuard (k : Core) : Core := k.setGuard { Guard.reset with holds := k.guard.holds }

/-- START is taken: the set-ups of R21, R48, R64 and R114. -/
def Core.startRun (k : Core) : Core :=
  let k := ((k.startStreams).startDetectors).setGroup (Grouper.reset k.group.path)
  ((k.startGuard).setMonitor Monitor.reset).endStrobe.setRun .listening

def Core.takeStart (k : Core) (b : Block) : Core :=
  if k.unit.run ≠ .stopped then k.refuse b .wrongState
  else if k.unit.applied = false then k.refuse b .notApplied
  else if k.writer.unplacedTrigger ∨ k.writer.unplacedFreeze then k.refuse b .pending
  else k.startRun.answer b .done .plain

/-! ### STOP (R176) -/

/-- A ring still COUNTING is NOT_FROZEN at its last forwarded index (R110). -/
def cancelRing (f : RingFreeze) (last : Option Nat) : RingFreeze :=
  if f.state = .counting then { state := .notFrozen, point := last } else f

/-- In POST_TRIGGER, STOP cancels the countdown and hands the FREEZE record over (R110). -/
def Core.cancelFreeze (k : Core) : Core :=
  if k.unit.run = .postTrigger then
    (k.setGuard { k.guard with
      freeze := tabulate fun c => cancelRing (look k.guard.freeze c) (look k.guard.lastFwd c)
      pFreeze := cancelRing k.guard.pFreeze k.guard.pLastFwd }).handFreezeRecord .cancelled
  else k

/-- Every tracker enters IDLE (R21). -/
def Core.idleStreams (k : Core) : Core :=
  k.setStreams { k.streams with
    chan := tabulate fun c => { look k.streams.chan c with state := .idle }
    pressure := { k.streams.pressure with state := .idle } }

/-- The work of STOP, steps 1 to 6 of R176. -/
def Core.stopRun (k : Core) : Core :=
  let k := forChans Core.withdraw k.abandonByStop
  let k := k.flushGroups.cancelFreeze.endFreeze
  (k.idleStreams.endStrobe.setRun .stopped).handLossIfCounted .stop

def Core.takeStop (k : Core) (b : Block) : Core :=
  if k.unit.run = .stopped then k.refuse b .wrongState else k.stopRun.answer b .done .plain

/-! ### TRIGGER, THAW, CHECK, RELEASE (R177) -/

def Core.takeTriggerCommand (k : Core) (b : Block) : Core :=
  if k.unit.run = .stopped then k.refuse b .wrongState
  else
    let r := k.dispatchTrigger .command
    r.1.answer b .done (.trigger r.2.1 r.2.2)

/-- THAW is taken (R109): P_max, arming state, flags, freeze states and context, run state. -/
def Core.thaw (k : Core) : Core :=
  ((k.setMonitor { k.monitor with pmax := k.monitor.mean, arming := .unarmed }).endFreeze).setRun .listening

def Core.takeThaw (k : Core) (b : Block) : Core :=
  if k.unit.run ≠ .frozen then k.refuse b .wrongState
  else if k.writer.unplacedFreeze then k.refuse b .pending
  else k.thaw.answer b .done (.thaw k.extraCount)

def Core.takeCheckCommand (k : Core) (b : Block) : Core :=
  match k.checkRefusal (checkSource b) (checkWindow b) with
  | some r => k.refuse b r
  | none =>
    match chanOf (checkSource b) with
    | none => k.refuse b .invalidField
    | some c =>
      let k := k.takeCheck c (checkWindow b) (checkUpdate b)
      k.answer b .done (.check k.check.fireTime)

/-- The holds that a RELEASE names, ascending; `none` when a field is refused (R86, R177). -/
def Core.releaseTargets (k : Core) (b : Block) : Option (List (Fin 64)) :=
  match releaseScope b with
  | 1 =>
    if 63 < releaseHoldNumber b then none
    else some (k.holdsWhere fun h x => h.val == releaseHoldNumber b && x.owner == releaseHit b)
  | 2 => (chanOf (releaseChan b)).map k.channelHolds
  | 3 => some (k.holdsWhere fun _ _ => true)
  | _ => none

def Core.takeRelease (k : Core) (b : Block) : Core :=
  match k.releaseTargets b with
  | none => k.refuse b .invalidField
  | some hs => (k.releaseList hs).answer b .done (.release hs.length ((hs.map k.holdAbsorbed).sum))

/-! ### APPLY and SNAPSHOT (R178, R182) -/

def Fetch.start : Fetch := { started := false, granted := 0, completed := 0, failed := false, data := [] }

def Core.takeApply (k : Core) (b : Block) : Core :=
  k.setUnit { k.unit with
    running := some (.apply (commandTag b) (applyWithPaths b) Fetch.start), disturbed := false, dirty := true }

/-- The snapshot target a code names. -/
def targetOf (n : Nat) : Option SnapshotTarget :=
  match n with
  | 1 => some .channels
  | 2 => some .paths
  | _ => none

def Core.takeSnapshot (k : Core) (b : Block) : Core :=
  match targetOf (snapshotTarget b) with
  | none => k.refuse b .invalidField
  | some t => k.setUnit { k.unit with running := some (.snapshot (commandTag b) t 0 0), dirty := true }

def snapshotAnswer (tag : Num) (r : AnswerResult) : Answer :=
  { tag := tag, code := snapshotCode, result := some r, detail := .plain }

/-- A snapshot write completes DONE; after the last one the SNAPSHOT is answered (R182). -/
def Core.snapshotWritten (k : Core) : Core :=
  match k.unit.running with
  | some (.snapshot tag t granted completed) =>
    if completed + 1 = t.length then k.endRunning (snapshotAnswer tag .done)
    else k.setUnit { k.unit with running := some (.snapshot tag t granted (completed + 1)) }
  | some (.apply _ _ _) | none => k

/-! ### CLEAR (R183) -/

/-- The answer of a running command that CLEAR aborts. -/
def Running.aborted : Running → Answer
  | .apply tag _ _ => applyAnswer tag .aborted .plain
  | .snapshot tag _ _ _ => snapshotAnswer tag .aborted

/-- The last two answers of a list: CLEAR keeps no more due. -/
def lastTwo (as : List Answer) : List Answer := as.drop (as.length - 2)

/-- The answers due after a CLEAR. -/
def CommandUnit.dueAfterClear (u : CommandUnit) (done : Answer) : List Answer :=
  lastTwo (u.due ++ (u.running.map Running.aborted).toList ++ [done])

/-- The command unit after a CLEAR. -/
def CommandUnit.cleared (u : CommandUnit) (done : Answer) : CommandUnit :=
  { u with
    running := none, run := .stopped, disturbed := false, pending := 0, due := u.dueAfterClear done, dirty := true,
    awaiting := false }

/-- CLEAR, behind the link. -/
def Core.clear (k : Core) (b : Block) : Core :=
  { streams := Streams.reset, hits := Hits.reset, group := Grouper.reset k.group.path, guard := Guard.reset,
    monitor := Monitor.reset, check := CheckUnit.reset k.check.select, writer := Writer.reset,
    unit := k.unit.cleared (answerTo b .done .plain), choices := k.choices }

/-! ### The decision (R173) -/

/-- A command other than CLEAR taken in READY. -/
def Core.takeReady (k : Core) (b : Block) : Core :=
  match commandKind (commandCode b) with
  | .apply => k.takeApply b
  | .start => k.takeStart b
  | .stop => k.takeStop b
  | .trigger => k.takeTriggerCommand b
  | .thaw => k.takeThaw b
  | .check => k.takeCheckCommand b
  | .release => k.takeRelease b
  | .snapshot => k.takeSnapshot b
  | .clear => k.clear b
  | .unknown => k.refuse b .unknown

/-- The command block is a CLEAR. -/
def isClear (b : Block) : Bool := commandKind (commandCode b) == .clear

/-- A command write, behind the link: the first case of R173 that applies. -/
def Core.takeCommand (k : Core) (b : Block) : Core :=
  if isClear b then k.clear b
  else if k.unit.busy then k.refuseBusy b
  else k.takeReady b

/-- The command write begins an APPLY, whose fetch waits for this write's completion (R178). -/
def Core.beginsApply (k : Core) (b : Block) : Bool := !k.unit.busy && commandKind (commandCode b) == .apply

/-! ### Answers written (R174, R184) -/

/-- A block 2 write that carried the oldest answer due completed DONE. -/
def Core.answerWritten (k : Core) : Core :=
  match k.unit.due with
  | [] => k
  | a :: rest =>
    (k.setUnit { k.unit with due := rest, latest := a, dirty := k.unit.dirty || rest.isEmpty }).raise .done

end Sys2Proof.Machine
end

