-- ==== Sys2Proof/Machine/Link.lean ====
section
/-! DEFINITION. The link ports: acceptance, classification, the memory port's completions and their return (R160 to R168). -/

namespace Sys2Proof.Machine

/-! ### A command write at the link (R168, R173, R183) -/

/-- CLEAR marks the internal entries of the issued list as discarded. -/
def Issued.discard (i : Issued) : Issued :=
  match i.owner with
  | .port _ => i
  | .answer _ | .fetch | .snapshot | .record => { i with discarded := true }

/-- No entry of an accepted queue starts a fetch any more. -/
def PortState.forgetFetch (q : PortState) : PortState :=
  { q with accepted := q.accepted.map fun e => { e with startsFetch := false } }

/-- CLEAR withdraws the requests of the record writer and of the fetch and snapshot engine. That the wait count stays where
this ends a round under way is the model's own choice (log 44). -/
def Arbiter.withdrawForClear (a : Arbiter) : Arbiter :=
  { a with engine := false, record := false, abandoned := none, round := a.round.filter fun r => r == .answer }

/-- CLEAR, the link included. -/
def State.clear (s : State) (b : Block) : State :=
  { s with
    issued := s.issued.map Issued.discard
    arb := s.arb.withdrawForClear
    host := s.host.forgetFetch
    core := s.core.clear b }

def State.takeCommand (s : State) (b : Block) : State :=
  if isClear b then s.clear b else s.setCore (s.core.takeCommand b)

/-! ### What an accepted write is sent to (R163, R164) -/

/-- A FOREIGN fault (R164). -/
def Core.raiseForeign (k : Core) (addr : BlockAddr) : Core :=
  k.raiseFault
    { kind := .foreign, place := .elsewhere, index := none, expected := none, distance := none, time := none,
      lead := none, addr := some addr }

/-- An acquisition write by its class; the answer is whether it is absorbed. -/
def State.takeAcquisitionWrite (s : State) (w : BlockWrite) : State × Bool :=
  match s.place w.addr.toNat with
  | .acoustic c n =>
    let r := s.core.acousticWrite c n w
    (s.setCore r.1, r.2)
  | .pressure n =>
    let r := s.core.pressureWrite n w
    (s.setCore r.1, r.2)
  | .record _ => (s.setCore (s.core.raiseForeign w.addr), false)
  | .control b => (s.setCore ((s.core.raiseForeign w.addr).reportPageWrite b), false)
  | .plain => (s, false)

/-- A host write to a block of the control page: commands, acknowledgements, disturbance (R153, R164). -/
def State.takePageWrite (s : State) (b : Nat) (w : BlockWrite) : State :=
  let s := s.setCore (s.core.reportPageWrite b)
  match b with
  | 0 => s.takeCommand (maskedData w.data w.mask)
  | 1 => s.setCore (s.core.acknowledge (byteAt (maskedData w.data w.mask) 0))
  | _ => s

/-- A host write by its class; the answer is whether it is absorbed. -/
def State.takeHostWrite (s : State) (w : BlockWrite) : State × Bool :=
  match s.place w.addr.toNat with
  | .acoustic c n =>
    let r := s.core.hostAcousticWrite c n
    (s.setCore r.1, r.2)
  | .pressure _ =>
    let r := s.core.hostPressureWrite
    (s.setCore r.1, r.2)
  | .control b => (s.takePageWrite b w, false)
  | .record _ | .plain => (s, false)

def State.takeWrite (s : State) (p : Port) (w : BlockWrite) : State × Bool :=
  match p with
  | .acquisition => s.takeAcquisitionWrite w
  | .host => s.takeHostWrite w

/-- A host write begins an APPLY: its completion will start the fetch. -/
def State.writeBeginsApply (s : State) (p : Port) (w : BlockWrite) : Bool :=
  match p, s.place w.addr.toNat with
  | .host, .control 0 => s.core.beginsApply (maskedData w.data w.mask)
  | _, _ => false

/-! ### Return in acceptance order (R165) -/

/-- A completion returned to the host acts: read-release and drain test (R84, R141). -/
def Core.hostReadReturned (k : Core) (ps : List Place) : Core := (k.readRelease ps).drainRead ps

/-- What the return of an entry does to the blocks behind the link. -/
def Core.entryReturned (k : Core) (p : Port) (e : Accepted) (r : Returned) : Core :=
  match p, e.request, r with
  | .host, .read _ _, .done _ => k.hostReadReturned e.places
  | _, _, _ => k

/-- Return the completion of the oldest entry. -/
def State.returnOne (s : State) (p : Port) (e : Accepted) (rest : List Accepted) (r : Returned) : State :=
  let q := s.port p
  (s.setPort p { q with accepted := rest, returned := q.returned ++ [r] }).setCore (s.core.entryReturned p e r)

/-- Return the oldest entries as long as they are complete. -/
def State.returnLoop (p : Port) : Nat → State → State
  | 0, s => s
  | fuel + 1, s =>
    match (s.port p).accepted with
    | [] => s
    | e :: rest =>
      match e.cond with
      | .complete r => State.returnLoop p fuel (s.returnOne p e rest r)
      | .waiting | .issued => s

def State.returnReady (s : State) (p : Port) : State := State.returnLoop p (s.port p).accepted.length s

/-! ### Acceptance (R161) -/

/-- A port can accept the request at the front of its link. -/
def State.canAccept (s : State) (p : Port) : Bool :=
  !s.linkReset && decide ((s.port p).accepted.length < 16) && !(s.port p).link.isEmpty
    && (p == .host || s.core.acquisitionOpen)

/-- An entry joins an accepted queue. -/
def State.enqueue (s : State) (p : Port) (e : Accepted) : State :=
  let q := s.port p
  s.setPort p { q with accepted := q.accepted ++ [e] }

/-- The condition of a write at its acceptance: an absorbed write is complete with DONE at once (R81, R161). -/
def writeCondition (absorbed : Bool) : Condition := if absorbed then .complete (.done []) else .waiting

/-- The qualifier acts on a request at its acceptance, and the request becomes an entry (R161). -/
def State.acceptRequest (s : State) (p : Port) (r : Request) : State :=
  match r with
  | .read _ _ => s.enqueue p { request := r, places := s.placesOf r, startsFetch := false, cond := .waiting }
  | .write w =>
    let t := s.takeWrite p w
    t.1.enqueue p
      { request := r, places := s.placesOf r, startsFetch := s.writeBeginsApply p w, cond := writeCondition t.2 }

/-- Accept the request at the front of a port's link. -/
def State.acceptFront (s : State) (p : Port) : State :=
  match (s.port p).link with
  | [] => s
  | r :: rest => ((s.setPort p { s.port p with link := rest }).acceptRequest p r).returnReady p

/-- A request arrives on a port's link; the port accepts the request at the front if it can (log 4). -/
def State.arrive (s : State) (p : Port) (r : Request) : State :=
  let q := s.port p
  let s := s.setPort p { q with link := q.link ++ [r] }
  if s.canAccept p then s.acceptFront p else s

/-! ### Completions received on the memory port (R166 to R168) -/

/-- The lines a completion gives a request: those of its blocks for a read, none for a write. -/
def linesFor (r : Request) (lines : Vector Block 8) : List Block :=
  match r with
  | .read _ len => lines.toList.take (len.val + 1)
  | .write _ => []

def returnedFor (r : Request) (c : Completion) : Returned :=
  match c with
  | .done lines => .done (linesFor r lines)
  | .failed => .failed

/-- A DOWNSTREAM fault for a FAILED acquisition write into a ring (R167). -/
def Core.raiseDownstream (k : Core) (addr : BlockAddr) : Place → Core
  | .acoustic c _ =>
    k.raiseFault
      { kind := .downstream, place := .acoustic c, index := none, expected := none, distance := none,
        time := some (k.tracker c).time, lead := none, addr := some addr }
  | .pressure _ =>
    k.raiseFault
      { kind := .downstream, place := .pressure, index := none, expected := none, distance := none,
        time := some k.streams.pressure.count, lead := none, addr := some addr }
  | .record _ | .control _ | .plain => k

/-- What the receipt of an upstream entry's completion does behind the link (R167, R178). -/
def Core.upstreamReceived (k : Core) (p : Port) (e : Accepted) (c : Completion) : Core :=
  let k :=
    match p, e.request, c with
    | .acquisition, .write w, .failed => e.places.foldl (fun k x => k.raiseDownstream w.addr x) k
    | _, _, _ => k
  if e.startsFetch then k.startFetch else k

/-- An entry is on the memory port. -/
def Accepted.isIssued (e : Accepted) : Bool := e.cond == .issued

/-- The oldest issued entry of a queue becomes complete. -/
def completeOldest (c : Completion) : List Accepted → List Accepted
  | [] => []
  | e :: es =>
    if e.isIssued then { e with cond := .complete (returnedFor e.request c) } :: es else e :: completeOldest c es

/-- A completion for an upstream entry. -/
def State.completeUpstream (s : State) (p : Port) (c : Completion) : State :=
  let q := s.port p
  match q.accepted.find? Accepted.isIssued with
  | none => s
  | some e =>
    ((s.setPort p { q with accepted := completeOldest c q.accepted }).setCore
      (s.core.upstreamReceived p e c)).returnReady p

/-- A completion for a write of the answer and status writer. -/
def Core.answerCompleted (k : Core) (w : AnswerWrite) (c : Completion) : Core :=
  let k := k.setUnit { k.unit with awaiting := false }
  if k.writer.halted then k
  else
    match c, w with
    | .failed, _ => k.halt
    | .done _, .answerBlock true => k.answerWritten
    | .done _, .answerBlock false => k
    | .done _, .statusBlock => k

/-- A completion for a write of the record writer. -/
def Core.recordCompleted (k : Core) (c : Completion) : Core :=
  if k.writer.halted then k
  else
    match c with
    | .done _ => k.recordWritten
    | .failed => k.halt

/-- A completion for a snapshot write. -/
def Core.snapshotCompleted (k : Core) (c : Completion) : Core :=
  if k.writer.halted then k
  else
    match c with
    | .done _ => k.snapshotWritten
    | .failed => k.halt

/-- The data a completion gives a fetch read, absent when it FAILED. -/
def fetchLines (r : Request) (c : Completion) : Option (List Block) :=
  match c with
  | .done lines => some (linesFor r lines)
  | .failed => none

/-- Outstanding record writes of an abandoned placement are ignored (R149). -/
def Issued.discardRecord (i : Issued) : Issued :=
  match i.owner with
  | .record => { i with discarded := true }
  | .port _ | .answer _ | .fetch | .snapshot => i

/-- The placement that was in progress has been abandoned (R149). -/
def placementAbandoned (before after : Core) : Bool := before.writer.placement.isSome && after.writer.placement.isNone

/-- Block address of a slot of the record ring. -/
def Core.slotAddr (k : Core) (slot : Nat) : BlockAddr := BitVec.ofNat 34 (k.recordEntry.base + slot)

/-- The next write of a placement, of one full block (R138). -/
def Core.placementWrite (k : Core) (p : Placement) : BlockWrite :=
  let x := p.write p.granted
  { addr := k.slotAddr x.1, data := x.2, mask := fullMask }

/-- A write of the placement that stands presented stays so when the placement is abandoned, as it was presented (R171);
`k` is the state before. -/
def Arbiter.keepAbandoned (a : Arbiter) (k : Core) : Arbiter :=
  if a.record then { a with record := false, abandoned := k.writer.placement.map k.placementWrite } else a

/-- The writes of the abandoned placement go on into the old ring, and their completions are ignored (R149). -/
def State.abandonWrites (s : State) (k : Core) : State :=
  (s.setIssued (s.issued.map Issued.discardRecord)).setArb (s.arb.keepAbandoned k)

/-- A completion for a fetch read; an activation that abandons a placement leaves its writes to the old ring. -/
def State.completeFetch (s : State) (r : Request) (c : Completion) : State :=
  let k := s.core.fetchCompleted s.pageBase (fetchLines r c)
  let s' := s.setCore k
  if placementAbandoned s.core k then s'.abandonWrites s.core else s'

/-- A completion goes to the owner of the oldest issued entry (R166, R168). -/
def State.completeFor (s : State) (i : Issued) (c : Completion) : State :=
  if i.discarded then s
  else
    match i.owner with
    | .port p => s.completeUpstream p c
    | .answer w => s.setCore (s.core.answerCompleted w c)
    | .fetch => s.completeFetch i.request c
    | .snapshot => s.setCore (s.core.snapshotCompleted c)
    | .record => s.setCore (s.core.recordCompleted c)

/-- The memory port receives a completion; with no entry in its issued list it ignores it (R171). -/
def State.receive (s : State) (c : Completion) : State :=
  match s.issued with
  | [] => s
  | i :: rest => (s.setIssued rest).completeFor i c

end Sys2Proof.Machine
end

