-- ==== Sys2Proof/Machine/Arbiter.lean ====
section
/-! DEFINITION. The memory arbiter and the internal requesters' presentations (R138, R168 to R171, R178, R182, R184). -/

namespace Sys2Proof.Machine

/-! ### Presenting (R168) -/

/-- What the answer and status writer would present, when it has no write outstanding (R184). -/
def CommandUnit.wantsReply (u : CommandUnit) : Option PageReply :=
  if !u.due.isEmpty || u.refusalMark then some .block2
  else if u.dirty then some .block3
  else none

/-- The presentation of the answer and status writer: kept until granted, none while halted. -/
def State.replyPresented (s : State) : Option PageReply :=
  if s.core.writer.halted then none
  else if s.arb.answer.isSome then s.arb.answer
  else if s.core.unit.awaiting then none
  else s.core.unit.wantsReply

/-- The fetch and snapshot engine presents a read of a started fetch that has not failed, or a snapshot write unless
halted (R148, R178, R182). -/
def Core.enginePresents (k : Core) : Bool :=
  match k.unit.running with
  | some (.apply _ withPaths f) => f.started && !f.failed && decide (f.granted < (fetchReads withPaths).length)
  | some (.snapshot _ t granted _) => !k.writer.halted && decide (granted < t.length)
  | none => false

/-- The record writer presents the next write of its placement unless halted (R138, R148). -/
def Core.recordPresents (k : Core) : Bool :=
  !k.writer.halted &&
    match k.writer.placement with
    | some p => p.mayPresent
    | none => false

/-- The write of an abandoned placement stands presented until it is granted, and no longer once halted (R148, R168). -/
def State.abandonedPresented (s : State) : Option BlockWrite := if s.core.writer.halted then none else s.arb.abandoned

/-- A requester is presenting. -/
def Arbiter.presents (a : Arbiter) : Requester → Bool
  | .answer => a.answer.isSome
  | .engine => a.engine
  | .record => a.record || a.abandoned.isSome

/-- The internal candidates, in the order in which they are granted. -/
def Arbiter.candidates (a : Arbiter) : List Requester := [Requester.answer, .engine, .record].filter a.presents

/-- The round goes on with those of its requesters that still present. -/
def Arbiter.pruneRound (a : Arbiter) : Arbiter := { a with round := a.round.filter a.presents }

/-- The wait count becomes 0 when a round is over and whenever no internal candidate is present (R170). -/
def Arbiter.settle (a : Arbiter) (roundBefore : Bool) : Arbiter :=
  if (roundBefore && a.round.isEmpty) || a.candidates.isEmpty then { a with waitCount := 0 } else a

/-- Each internal requester presents its next request, one at a time; nothing is presented while the link reset line is
asserted (R168, R171, log 13). -/
def State.present (s : State) : State :=
  if s.linkReset then s
  else
    let a := { s.arb with
      answer := s.replyPresented
      engine := s.core.enginePresents
      record := s.core.recordPresents && s.arb.abandoned.isNone
      abandoned := s.abandonedPresented }
    s.setArb (a.pruneRound.settle !s.arb.round.isEmpty)

/-! ### Issuing (R154, R166) -/

def State.issue (s : State) (o : Owner) (r : Request) : State :=
  s.setIssued (s.issued ++ [{ owner := o, request := r, discarded := false }])

/-- A write of one full block by the part itself. -/
def fullWrite (addr : BlockAddr) (data : Block) : Request := .write { addr := addr, data := data, mask := fullMask }

/-- The answer that block 2 carries: the oldest due, or the latest when none is due (R184). -/
def CommandUnit.carried (u : CommandUnit) : Answer := u.due.head?.getD u.latest

/-- Issue block 2; the refusal mark is cleared. -/
def State.issueAnswer (s : State) : State :=
  let u := s.core.unit
  (s.issue (.answer (.answerBlock !u.due.isEmpty)) (fullWrite (s.pageAddr 2) (answerBlock u.carried u.refusal))).setCore
    (s.core.setUnit { u with refusalMark := false, awaiting := true })

/-- Issue block 3; the dirty mark is cleared. -/
def State.issueStatus (s : State) : State :=
  (s.issue (.answer .statusBlock) (fullWrite (s.pageAddr 3) s.core.statusBlock)).setCore
    (s.core.setUnit { s.core.unit with dirty := false, awaiting := true })

def State.issueReply (s : State) : State :=
  let t := s.setArb { s.arb with answer := none }
  match s.arb.answer with
  | some .block2 => t.issueAnswer
  | some .block3 => t.issueStatus
  | none => s

/-- Issue the next request of the fetch and snapshot engine. -/
def State.issueEngine (s : State) : State :=
  let u := s.core.unit
  match u.running with
  | some (.apply tag withPaths f) =>
    match (fetchReads withPaths)[f.granted]? with
    | some r =>
      (s.issue .fetch (.read (s.pageAddr r.1) r.2)).setCore
        (s.core.setUnit { u with running := some (.apply tag withPaths { f with granted := f.granted + 1 }) })
    | none => s
  | some (.snapshot tag t granted completed) =>
    (s.issue .snapshot (fullWrite (s.pageAddr (t.first + granted)) (s.core.snapshotBlock t granted))).setCore
      (s.core.setUnit { u with running := some (.snapshot tag t (granted + 1) completed) })
  | none => s

/-- Issue the next write of the placement. -/
def State.issuePlacement (s : State) : State :=
  let w := s.core.writer
  match w.placement with
  | some p =>
    (s.issue .record (.write (s.core.placementWrite p))).setCore
      (s.core.setWriter { w with placement := some { p with granted := p.granted + 1 } })
  | none => s

/-- Issue the write of an abandoned placement, its completion to be ignored (R149). -/
def State.issueAbandoned (s : State) (w : BlockWrite) : State :=
  (s.setIssued (s.issued ++ [{ owner := .record, request := .write w, discarded := true }])).setArb
    { s.arb with abandoned := none }

/-- Issue what the record writer presents. -/
def State.issueRecord (s : State) : State :=
  match s.arb.abandoned with
  | some w => s.issueAbandoned w
  | none => s.issuePlacement

def State.issueInternal (s : State) : Requester → State
  | .answer => s.issueReply
  | .engine => s.issueEngine
  | .record => s.issueRecord

/-! ### Granting (R169, R170) -/

def Accepted.isWaiting (e : Accepted) : Bool := e.cond == .waiting

/-- A port has an upstream candidate. -/
def State.hasWaiting (s : State) (p : Port) : Bool := (s.port p).accepted.any Accepted.isWaiting

/-- The upstream candidate that a grant would take: the sole one, or that of the port not granted last (R169). -/
def State.upstreamChoice (s : State) : Option Port :=
  match s.hasWaiting .acquisition, s.hasWaiting .host with
  | true, true =>
    match s.arb.lastGrant with
    | .acquisition => some .host
    | .host => some .acquisition
  | true, false => some .acquisition
  | false, true => some .host
  | false, false => none

/-- The oldest waiting entry becomes issued. -/
def issueOldest : List Accepted → List Accepted
  | [] => []
  | e :: es => if e.isWaiting then { e with cond := .issued } :: es else e :: issueOldest es

/-- Grant the oldest waiting entry of a port. -/
def State.grantUpstream (s : State) (p : Port) : State :=
  let q := s.port p
  match q.accepted.find? Accepted.isWaiting with
  | some e =>
    ((s.setPort p { q with accepted := issueOldest q.accepted }).issue (.port p) e.request).setArb
      { s.arb with lastGrant := p }
  | none => s

def State.setRound (s : State) (r : List Requester) : State := s.setArb { s.arb with round := r }

/-- Grant the first requester of a round; when it is the last, the round is over and the wait count becomes 0. -/
def State.grantInRound (s : State) (r : Requester) (rest : List Requester) : State :=
  let s := (s.issueInternal r).setRound rest
  if rest.isEmpty then s.setArb { s.arb with waitCount := 0 } else s

/-- Both kinds of candidate are present (R170). -/
def State.grantBoth (s : State) (p : Port) (r : Requester) (rest : List Requester) : State :=
  if s.arb.waitCount < s.core.global.tenure then
    let t := s.grantUpstream p
    t.setArb { t.arb with waitCount := s.arb.waitCount + 1 }
  else s.grantInRound r rest

/-- The choice of R170: a round under way goes on, else by the candidates present. -/
def State.choose (s : State) : State :=
  match s.arb.round with
  | r :: rest => s.grantInRound r rest
  | [] =>
    match s.upstreamChoice, s.arb.candidates with
    | none, [] => s
    | some p, [] => s.grantUpstream p
    | none, r :: _ => s.issueInternal r
    | some p, r :: rest => s.grantBoth p r rest

/-- One decision of the arbiter: nothing while the link reset line is asserted or the issued list is full (R169, R171). -/
def State.grant (s : State) : State :=
  let s := s.present
  if s.linkReset || decide (16 ≤ s.issued.length) then s else s.choose

end Sys2Proof.Machine
end

