-- ==== Sys2Proof/Machine/CommandWrites.lean ====
section
/-! DEFINITION. Host-port writes to blocks 0 and 1 of the control page: the commands and the acknowledgement (R153, R173,
R185). The command is the one in the write's data. -/

namespace Sys2Proof.Machine

/-- A host-port write to a block of the control page (R153). -/
def State.pageRequest (s : State) (b : Nat) (w : PageWrite) : Request :=
  .write { addr := s.pageAddr b, data := w.data, mask := w.mask }

/-- A host-port write to a block of the control page arrives. -/
def State.arrivePage (s : State) (b : Nat) (w : PageWrite) : State := (s.arrive .host (s.pageRequest b w)).present

/-- APPLY begins its fetch (R178). -/
def execApply (w : PageWrite) (s : State) : Host.Outcome State Fault Refusal := .next (s.arrivePage 0 w)

/-- START (R175). -/
def execStart (w : PageWrite) (s : State) : Host.Outcome State Fault Refusal := .next (s.arrivePage 0 w)

/-- STOP (R176). -/
def execStop (w : PageWrite) (s : State) : Host.Outcome State Fault Refusal := .next (s.arrivePage 0 w)

/-- TRIGGER, dispatched with source COMMAND (R98, R99). -/
def execTrigger (w : PageWrite) (s : State) : Host.Outcome State Fault Refusal := .next (s.arrivePage 0 w)

/-- THAW (R109). -/
def execThaw (w : PageWrite) (s : State) : Host.Outcome State Fault Refusal := .next (s.arrivePage 0 w)

/-- CHECK (R117, R118). -/
def execCheck (w : PageWrite) (s : State) : Host.Outcome State Fault Refusal := .next (s.arrivePage 0 w)

/-- RELEASE with scope ONE (R86). -/
def execReleaseOne (w : PageWrite) (s : State) : Host.Outcome State Fault Refusal := .next (s.arrivePage 0 w)

/-- RELEASE with scope CHANNEL (R86). -/
def execReleaseChannel (w : PageWrite) (s : State) : Host.Outcome State Fault Refusal := .next (s.arrivePage 0 w)

/-- RELEASE with scope ALL (R86). -/
def execReleaseAll (w : PageWrite) (s : State) : Host.Outcome State Fault Refusal := .next (s.arrivePage 0 w)

/-- SNAPSHOT of CHANNELS (R182). -/
def execSnapshotChannels (w : PageWrite) (s : State) : Host.Outcome State Fault Refusal := .next (s.arrivePage 0 w)

/-- SNAPSHOT of PATHS (R182). -/
def execSnapshotPaths (w : PageWrite) (s : State) : Host.Outcome State Fault Refusal := .next (s.arrivePage 0 w)

/-- CLEAR (R183). -/
def execClear (w : PageWrite) (s : State) : Host.Outcome State Fault Refusal := .next (s.arrivePage 0 w)

/-- A command write whose code is not 1 to 9 (R173). -/
def execUnknownCommand (w : PageWrite) (s : State) : Host.Outcome State Fault Refusal := .next (s.arrivePage 0 w)

/-- ACKNOWLEDGE: each cause whose bit is set is removed from the pending causes (R185). -/
def execAcknowledge (w : PageWrite) (s : State) : Host.Outcome State Fault Refusal := .next (s.arrivePage 1 w)

end Sys2Proof.Machine
end

