-- ==== Sys2Proof/Machine/MemoryPort.lean ====
section
/-! DEFINITION. The memory port: grants, and completions received. A completion carries no owner: it belongs to the oldest
entry of the issued list, whatever row names it (R166, log 10). -/

namespace Sys2Proof.Machine

/-- One decision of the memory arbiter (R169, R170). -/
def execMemoryGrant (s : State) : Host.Outcome State Fault Refusal := .next s.grant.present

/-- A completion whose oldest issued entry is an upstream request (R165 to R167). -/
def execUpstreamCompletion (r : Completion) (s : State) : Host.Outcome State Fault Refusal := .next (s.receive r).present

/-- A completion of a write of the record writer (R138, R139, R148). -/
def execRecordWriteCompletion (r : Completion) (s : State) : Host.Outcome State Fault Refusal := .next (s.receive r).present

/-- A completion of a write of the answer and status writer (R174, R184). -/
def execAnswerWriteCompletion (r : Completion) (s : State) : Host.Outcome State Fault Refusal := .next (s.receive r).present

/-- A completion of a fetch read; after the last the APPLY is decided (R178, R179). -/
def execFetchReadCompletion (r : Completion) (s : State) : Host.Outcome State Fault Refusal := .next (s.receive r).present

/-- A completion of a snapshot write (R182). -/
def execSnapshotWriteCompletion (r : Completion) (s : State) : Host.Outcome State Fault Refusal := .next (s.receive r).present

/-- A completion of an internal request that CLEAR discarded, or whose placement was abandoned (R149, R168). -/
def execDiscardedCompletion (r : Completion) (s : State) : Host.Outcome State Fault Refusal := .next (s.receive r).present

end Sys2Proof.Machine
end

