-- ==== Sys2Proof/Machine/Requests.lean ====
section
/-! DEFINITION. Requests arriving on the upstream links: ring writes, forwarded writes and reads. What a request turns out
to be is decided by the region decoder at its acceptance (R163, log 10). -/

namespace Sys2Proof.Machine

/-- An acquisition write into an acoustic ring (R11). -/
def execAcousticRingWrite (w : BlockWrite) (s : State) : Host.Outcome State Fault Refusal :=
  .next (s.arrive .acquisition (.write w)).present

/-- An acquisition write into the pressure ring (R12). -/
def execPressureRingWrite (w : BlockWrite) (s : State) : Host.Outcome State Fault Refusal :=
  .next (s.arrive .acquisition (.write w)).present

/-- A host write into an acoustic or pressure ring (R78, R80). -/
def execHostRingWrite (w : BlockWrite) (s : State) : Host.Outcome State Fault Refusal :=
  .next (s.arrive .host (.write w)).present

/-- A write outside any ring, or into the record ring or the control page (R163, R164). -/
def execForwardedWrite (p : Port) (w : BlockWrite) (s : State) : Host.Outcome State Fault Refusal :=
  .next (s.arrive p (.write w)).present

/-- A read of 1 to 8 blocks (R163). -/
def execReadRequest (p : Port) (addr : BlockAddr) (len : Fin 8) (s : State) : Host.Outcome State Fault Refusal :=
  .next (s.arrive p (.read addr len)).present

/-- The acquisition write that freezes a COUNTING acoustic ring (R102). -/
def execFreezingWrite (w : BlockWrite) (s : State) : Host.Outcome State Fault Refusal :=
  .next (s.arrive .acquisition (.write w)).present

/-- The acquisition write that freezes the COUNTING pressure ring at its count (R104). -/
def execPressureFreeze (w : BlockWrite) (s : State) : Host.Outcome State Fault Refusal :=
  .next (s.arrive .acquisition (.write w)).present

end Sys2Proof.Machine
end

