-- ==== Sys2Proof/Machine/Resets.lean ====
section
/-! DEFINITION. POWER_ON, LINK_RESET and LINK_RESET_RELEASE (R171, R187 and the reset rule of each block). -/

namespace Sys2Proof.Machine

/-- Power-on samples the straps and sets every block to its power-on values. The queue of commands and the counter of
free choices are not the part's and stay (logs 24, 31). -/
def execPowerOn (straps : BitVec 16) (s : State) : Host.Outcome State Fault Refusal :=
  let t := State.poweredOn straps
  .next { t with core := Core.reset pathReset s.core.choices, pending := s.pending }

/-- The accepted queue is emptied without a completion; the link holds its requests (R171, log 21). -/
def PortState.dropAccepted (q : PortState) : PortState := { q with accepted := [] }

/-- Assertion of the link reset line (R171). -/
def execLinkReset (s : State) : Host.Outcome State Fault Refusal :=
  .next { s with
    linkReset := true
    acq := s.acq.dropAccepted
    host := s.host.dropAccepted
    issued := []
    arb := Arbiter.reset
    core := Core.reset s.core.group.path s.core.choices }

/-- Release of the link reset line: the ports can accept again from the front of their links (R171). -/
def execLinkResetRelease (s : State) : Host.Outcome State Fault Refusal := .next (s.setLinkReset false).present

end Sys2Proof.Machine
end

