-- ==== Sys2Proof/Machine/SampleEvents.lean ====
section
/-! DEFINITION. The events of one sample in one detector. Each row carries the sample at which the event comes about: where
the event is due, the detector takes that sample whole (R24); where it is not, nothing happens (log 9). -/

namespace Sys2Proof.Machine

/-- The detector of the event's channel takes its sample, when the event is due. -/
def State.sampleEvent (s : State) (due : Bool) (e : SampleEvent) : State :=
  if due then (s.setCore (s.core.takeSample e.chan e.ringIndex e.time e.sample)).present else s

/-- The event of an open hit is due, as a test of the hit says. -/
def Core.openDue (k : Core) (c : Chan) (p : HitContext → Nat → Bool) : Bool :=
  match (k.detector c).state with
  | .opened h => p h (k.detector c).prev
  | .idle | .armed _ | .guard _ | .check _ => false

/-- The source's sample reaches the fire time + 4096 in FIRING (R120). -/
def Core.fireTimeoutDue (k : Core) (e : SampleEvent) : Bool :=
  k.check.state == .firing && e.chan == k.check.source && (k.detector e.chan).inCheck
    && decide (k.check.fireTime + 4096 ≤ e.time)

/-- The sample closes the open hit normally (R35). -/
def Core.normalEndDue (k : Core) (e : SampleEvent) : Bool :=
  k.openDue e.chan fun h prev => h.endsNormally prev e.time e.sample

/-- The sample cuts the open hit (R37). -/
def Core.cutDue (k : Core) (e : SampleEvent) : Bool := k.openDue e.chan fun h prev => h.isCut prev e.time e.sample

/-- The sample settles the peak of the open hit, which it does not exceed (R33). -/
def Core.peakSettledDue (k : Core) (e : SampleEvent) : Bool :=
  k.openDue e.chan fun h prev =>
    !h.settled && decide (magnitude e.sample ≤ h.peak) && e.time == h.peakTime + h.peakWin
      && !h.isCut prev e.time e.sample

/-- The sample is at the guard end or later (R36). -/
def Core.guardEndDue (k : Core) (e : SampleEvent) : Bool :=
  match (k.detector e.chan).state with
  | .guard g => decide (g ≤ e.time)
  | .idle | .armed _ | .opened _ | .check _ => false

/-- The sample is later than the continuation end (R38). -/
def Core.continuationEndDue (k : Core) (e : SampleEvent) : Bool :=
  match (k.detector e.chan).state with
  | .armed (some c) => decide (c < e.time)
  | .armed none | .idle | .opened _ | .guard _ | .check _ => false

/-- FIRE_TIMEOUT (R120). -/
def execFireTimeout (e : SampleEvent) (s : State) : Host.Outcome State Fault Refusal :=
  .next (s.sampleEvent (s.core.fireTimeoutDue e) e)

/-- NORMAL_END (R35). -/
def execNormalEnd (e : SampleEvent) (s : State) : Host.Outcome State Fault Refusal :=
  .next (s.sampleEvent (s.core.normalEndDue e) e)

/-- GUARD_END (R36). -/
def execGuardEnd (e : SampleEvent) (s : State) : Host.Outcome State Fault Refusal :=
  .next (s.sampleEvent (s.core.guardEndDue e) e)

/-- CUT (R37). -/
def execCut (e : SampleEvent) (s : State) : Host.Outcome State Fault Refusal :=
  .next (s.sampleEvent (s.core.cutDue e) e)

/-- PEAK_SETTLED (R33). -/
def execPeakSettled (e : SampleEvent) (s : State) : Host.Outcome State Fault Refusal :=
  .next (s.sampleEvent (s.core.peakSettledDue e) e)

/-- CONTINUATION_END (R38). -/
def execContinuationEnd (e : SampleEvent) (s : State) : Host.Outcome State Fault Refusal :=
  .next (s.sampleEvent (s.core.continuationEndDue e) e)

end Sys2Proof.Machine
end

