-- ==== Sys2Proof/Machine/Timed.lean ====
section
/-! DEFINITION. The record writer's considerations of its head, the stall limit, and the end of the pulse strobe (R119, R137,
R145). The first two read the time reference. -/

namespace Sys2Proof.Machine

/-- The record writer considers its head record at a reading of the time reference (R137, R144, log 11). -/
def execPlacement (time : BitVec 32) (s : State) : Host.Outcome State Fault Refusal :=
  .next ((s.setTimeRef time).setCore (s.core.considerHead time)).present

/-- At a reading of the time reference the elapsed time has reached the stall limit in force (R145, log 23). -/
def execStallExpiry (time : BitVec 32) (s : State) : Host.Outcome State Fault Refusal :=
  .next ((s.setTimeRef time).setCore (s.core.stallExpiry time)).present

/-- The pulse strobe returns inactive (R119). -/
def execPulseStrobeEnd (s : State) : Host.Outcome State Fault Refusal := .next (s.setCore s.core.endStrobe).present

end Sys2Proof.Machine
end

