-- ==== Sys2Proof/Machine/Dispatch.lean ====
section
/-! DEFINITION. The dispatch: one arm per command, each one direct call of its meaning. -/

namespace Sys2Proof.Machine

def exec (i : Instr) (s : State) : Host.Outcome State Fault Refusal :=
  match i with
  | .powerOn straps => Sys2Proof.Machine.execPowerOn straps s
  | .linkReset => Sys2Proof.Machine.execLinkReset s
  | .linkResetRelease => Sys2Proof.Machine.execLinkResetRelease s
  | .acousticRingWrite w => Sys2Proof.Machine.execAcousticRingWrite w s
  | .pressureRingWrite w => Sys2Proof.Machine.execPressureRingWrite w s
  | .hostRingWrite w => Sys2Proof.Machine.execHostRingWrite w s
  | .forwardedWrite p w => Sys2Proof.Machine.execForwardedWrite p w s
  | .readRequest p addr len => Sys2Proof.Machine.execReadRequest p addr len s
  | .apply w => Sys2Proof.Machine.execApply w s
  | .start w => Sys2Proof.Machine.execStart w s
  | .stop w => Sys2Proof.Machine.execStop w s
  | .trigger w => Sys2Proof.Machine.execTrigger w s
  | .thaw w => Sys2Proof.Machine.execThaw w s
  | .check w => Sys2Proof.Machine.execCheck w s
  | .releaseOne w => Sys2Proof.Machine.execReleaseOne w s
  | .releaseChannel w => Sys2Proof.Machine.execReleaseChannel w s
  | .releaseAll w => Sys2Proof.Machine.execReleaseAll w s
  | .snapshotChannels w => Sys2Proof.Machine.execSnapshotChannels w s
  | .snapshotPaths w => Sys2Proof.Machine.execSnapshotPaths w s
  | .clear w => Sys2Proof.Machine.execClear w s
  | .unknownCommand w => Sys2Proof.Machine.execUnknownCommand w s
  | .acknowledge w => Sys2Proof.Machine.execAcknowledge w s
  | .memoryGrant => Sys2Proof.Machine.execMemoryGrant s
  | .upstreamCompletion r => Sys2Proof.Machine.execUpstreamCompletion r s
  | .recordWriteCompletion r => Sys2Proof.Machine.execRecordWriteCompletion r s
  | .answerWriteCompletion r => Sys2Proof.Machine.execAnswerWriteCompletion r s
  | .fetchReadCompletion r => Sys2Proof.Machine.execFetchReadCompletion r s
  | .snapshotWriteCompletion r => Sys2Proof.Machine.execSnapshotWriteCompletion r s
  | .discardedCompletion r => Sys2Proof.Machine.execDiscardedCompletion r s
  | .placement time => Sys2Proof.Machine.execPlacement time s
  | .stallExpiry time => Sys2Proof.Machine.execStallExpiry time s
  | .pulseStrobeEnd => Sys2Proof.Machine.execPulseStrobeEnd s
  | .fireTimeout e => Sys2Proof.Machine.execFireTimeout e s
  | .normalEnd e => Sys2Proof.Machine.execNormalEnd e s
  | .guardEnd e => Sys2Proof.Machine.execGuardEnd e s
  | .cut e => Sys2Proof.Machine.execCut e s
  | .peakSettled e => Sys2Proof.Machine.execPeakSettled e s
  | .continuationEnd e => Sys2Proof.Machine.execContinuationEnd e s
  | .freezingWrite w => Sys2Proof.Machine.execFreezingWrite w s
  | .pressureFreeze w => Sys2Proof.Machine.execPressureFreeze w s

end Sys2Proof.Machine
end

