-- ==== Sys2Proof/Machine/Held.lean ====
section
/-! DEFINITION. Acceptance of a request that a port left on its link while it could not accept (R161, log 3). -/

namespace Sys2Proof.Machine

/-- A port accepts the request at the front of its link, and the presentations follow. -/
def State.acceptOn (s : State) (p : Port) : State := (s.acceptFront p).present

/-- Accept one held request, if a port can; when both can, either may be first (R160, log 5). -/
def State.acceptHeld (s : State) : State :=
  match s.canAccept .acquisition, s.canAccept .host with
  | true, true =>
    let r := s.core.choose
    (s.setCore r.2).acceptOn (if r.1 then .acquisition else .host)
  | true, false => s.acceptOn .acquisition
  | false, true => s.acceptOn .host
  | false, false => s

end Sys2Proof.Machine
end

