-- ==== Sys2Proof/Safety.lean ====
section
/-! DEFINITION. What counts as a sound state of the part, in the terms that claims use: the link's queues, the command
unit, the buffers, and the stopped run. -/

namespace Sys2Proof.Machine

/-! ### The link (R160, R165, R166) -/

def Accepted.isComplete (e : Accepted) : Bool :=
  match e.cond with
  | .complete _ => true
  | .waiting | .issued => false

/-- The oldest entry is not complete: its completion would have been returned (R165). -/
def PortState.settled (q : PortState) : Bool :=
  match q.accepted with
  | [] => true
  | e :: _ => !e.isComplete

/-- No waiting entry stands before an issued one: requests are issued in acceptance order (R169). -/
def inIssueOrder (es : List Accepted) : Prop := es.Pairwise fun a b => ¬(a.isWaiting = true ∧ b.isIssued = true)

def Issued.ofPort (p : Port) (i : Issued) : Bool := i.owner == .port p

/-- The issued requests of a port, as the issued list and as its accepted queue have them (R166). -/
def State.issuedOf (s : State) (p : Port) : List Request := (s.issued.filter (Issued.ofPort p)).map Issued.request
def State.issuedIn (s : State) (p : Port) : List Request :=
  ((s.port p).accepted.filter Accepted.isIssued).map Accepted.request

/-- One upstream port: at most 16 outstanding, its oldest entry not complete, and the issued list in agreement with it. -/
structure State.PortSound (s : State) (p : Port) : Prop where
  bound   : (s.port p).accepted.length ≤ 16
  settled : (s.port p).settled = true
  ordered : inIssueOrder (s.port p).accepted
  agrees  : s.issuedOf p = s.issuedIn p

/-- The link: both ports, at most 16 issued requests, and no upstream request discarded (R168). -/
structure State.LinkSound (s : State) : Prop where
  acq    : s.PortSound .acquisition
  host   : s.PortSound .host
  bound  : s.issued.length ≤ 16
  kept   : ∀ i ∈ s.issued, ∀ p, i.owner = .port p → i.discarded = false

/-! ### The command unit (R174, R180, R183) -/

/-- A running command has no answer due beside it; at most two answers are due; the active settings pass validation and
are present exactly when the applied flag is set. -/
structure Core.UnitSound (k : Core) (pageBase : Nat) : Prop where
  running : k.unit.running.isSome = true → k.unit.due = []
  due     : k.unit.due.length ≤ 2
  valid   : ∀ st, k.unit.settings = some st → firstBad pageBase st = none
  applied : k.unit.applied = k.unit.settings.isSome

def State.CommandSound (s : State) : Prop := s.core.UnitSound s.pageBase

/-! ### The buffers (R49, R90) -/

/-- The arrival list stands in the order of R49. -/
def inArrivalOrder (as : List Arrival) : Prop := as.Pairwise fun a b => b.before a = false

structure Core.BuffersSound (k : Core) : Prop where
  means    : k.monitor.fifo.length ≤ 16
  arrivals : k.group.arrivals.length ≤ 64
  ordered  : inArrivalOrder k.group.arrivals

/-! ### The stopped run (R2, R42, R101, R128) -/

/-- While the run state is STOPPED nothing runs: trackers and detectors are IDLE, no check runs, no trigger stands. -/
structure Core.Quiet (k : Core) : Prop where
  trackers  : ∀ c, (k.tracker c).state = .idle
  pressure  : k.streams.pressure.state = .idle
  detectors : ∀ c, (k.detector c).state = .idle
  check     : k.check.state = .idle
  freezes   : ∀ c, (k.freezeOf c).state = .none
  pfreeze   : k.guard.pFreeze.state = .none
  post      : k.monitor.post = none

/-! ### Ports that can accept -/

/-- A request that arrives is accepted at once: nothing waits on the link, there is room, the line is not asserted, and
the oldest entry has nothing left to return. -/
structure State.Ready (s : State) (p : Port) : Prop where
  line    : s.linkReset = false
  link    : (s.port p).link = []
  room    : (s.port p).accepted.length < 16
  settled : (s.port p).settled = true
  isOpen  : p = .acquisition → s.core.acquisitionOpen = true

/-! ### A command write as it enters the host port (R153, R161) -/

/-- The entry that a host-port write to a block of the control page becomes; `starts` marks the write whose completion
starts a fetch (R178). -/
def State.pageEntry (s : State) (b : Nat) (w : PageWrite) (starts : Bool) : Accepted :=
  { request := .write { addr := s.pageAddr b, data := w.data, mask := w.mask }, places := [.control b],
    startsFetch := starts, cond := .waiting }

/-- Everything of the part but its blocks behind the link, its accepted queues and the presentations to its arbiter stays
as it is. -/
structure State.PinsKept (s t : State) : Prop where
  strap     : t.strap = s.strap
  linkReset : t.linkReset = s.linkReset
  timeRef   : t.timeRef = s.timeRef
  pending   : t.pending = s.pending
  lastGrant : t.arb.lastGrant = s.arb.lastGrant

/-- The write to a page block has been accepted and waits to be forwarded; nothing else of the link has moved. -/
structure State.PageTaken (s t : State) (b : Nat) (w : PageWrite) (starts : Bool) : Prop where
  pins   : s.PinsKept t
  host   : t.host = { s.host with accepted := s.host.accepted ++ [s.pageEntry b w starts] }
  acq    : t.acq = s.acq
  issued : t.issued = s.issued

/-- An entry has joined a port: an entry already complete is returned at once when no older one stands before it. -/
def PortState.joined (q : PortState) (e : Accepted) : PortState :=
  match q.accepted, e.cond with
  | [], .complete r => { q with returned := q.returned ++ [r] }
  | _, _ => { q with accepted := q.accepted ++ [e] }

/-- The entry of a write: complete with DONE when absorbed, waiting when forwarded. -/
def State.writeEntryOf (s : State) (w : BlockWrite) (absorbed : Bool) : Accepted :=
  { request := .write w, places := [s.place w.addr.toNat], startsFetch := false,
    cond := if absorbed then .complete (.done []) else .waiting }

/-- An acquisition write has been accepted, forwarded or absorbed. -/
structure State.AcquisitionTaken (s t : State) (w : BlockWrite) (absorbed : Bool) : Prop where
  pins   : s.PinsKept t
  acq    : t.acq = s.acq.joined (s.writeEntryOf w absorbed)
  host   : t.host = s.host
  issued : t.issued = s.issued

/-- A host write into a ring, or a write of no ring, has been accepted. -/
structure State.HostWriteTaken (s t : State) (w : BlockWrite) (absorbed : Bool) : Prop where
  pins   : s.PinsKept t
  host   : t.host = s.host.joined (s.writeEntryOf w absorbed)
  acq    : t.acq = s.acq
  issued : t.issued = s.issued

/-- Nothing of the link moves but the presentations to the arbiter. -/
structure State.LinkKept (s t : State) : Prop where
  pins   : s.PinsKept t
  acq    : t.acq = s.acq
  host   : t.host = s.host
  issued : t.issued = s.issued

/-! ### Reset values (R22, R45, R66, R89, R114, R128, R150) -/

/-- The blocks behind the link at the values that power-on, link reset and CLEAR share. -/
structure Core.AllReset (k : Core) : Prop where
  trackers  : ∀ c, k.tracker c =
    { state := .idle, origin := none, expected := 0, count := 0, stalled := false, frozen := false, absorbed := 0,
      faults := 0 }
  pressure  : k.streams.pressure = { state := .idle, origin := none, expected := 0, count := 0, frozen := false }
  times     : k.streams.lead = 0 ∧ k.streams.horizon = 0
  detectors : ∀ c, k.detector c = { state := .idle, threshold := 0, noise := 0, prev := 0 }
  nextHit   : k.hits.nextHit = 0
  arrivals  : k.group.arrivals = [] ∧ k.group.lastTaken = none
  events    : (∀ i, look k.group.events i = none) ∧ k.group.nextEvent = 0
  counts    : k.group.refused = 0 ∧ k.group.late = 0 ∧ k.group.sparse = 0 ∧ k.group.forced = 0
  holds     : ∀ h, k.hold h = none
  forwarded : (∀ c, k.lastForwarded c = none) ∧ k.guard.pLastFwd = none
  freezes   : (∀ c, k.freezeOf c = { state := .none, point := none }) ∧ k.guard.pFreeze = { state := .none, point := none }
  monitor   : k.monitor = { k.monitor with
    fifo := [], pmax := 0, phase := .quiet, arming := .unarmed, tt := 0, post := none }
  check     : k.check.state = .idle ∧ k.check.queued = none ∧ k.check.strobe = false
  queue     : k.writer.queue = [] ∧ k.writer.placement = none ∧ k.writer.mode = .placing
  ring      : k.writer.produce = 0 ∧ k.writer.drain = 0 ∧ k.writer.occupancy = 0 ∧ k.writer.nextNumber = 0
  loss      : (∀ c, look k.writer.loss.hits c = 0) ∧ k.writer.loss.events = 0 ∧ k.writer.loss.phases = 0
                ∧ k.writer.loss.onArrival = 0 ∧ k.writer.loss.stalls = 0 ∧ k.writer.loss.expiries = 0
                ∧ k.writer.loss.first = none
  marks     : k.writer.halted = false ∧ k.writer.unplacedTrigger = false ∧ k.writer.unplacedFreeze = false
                ∧ k.writer.unplacedCheck = false
  unit      : k.unit.running = none ∧ k.unit.run = .stopped ∧ k.unit.pending = 0 ∧ k.unit.disturbed = false
                ∧ k.unit.dirty = true

/-- The command unit as power-on and link reset leave it (R187). -/
structure CommandUnit.Fresh (u : CommandUnit) : Prop where
  settings : u.settings = none ∧ u.applied = false
  due      : u.due = []
  latest   : u.latest = { tag := 0, code := 0, result := none, detail := .plain }
  refusal  : u.refusal = { tag := 0, code := 0, busy := false } ∧ u.refusalMark = false

/-! ### What the guard does to a ring write (R78, R80, R81) -/

/-- A ring index of an acoustic channel is protected: it lies in the range of a hold of that channel, or the ring is
frozen. -/
def Core.Protected (k : Core) (c : Chan) (n : Nat) : Prop :=
  (∃ h x, k.hold h = some x ∧ x.chan = c ∧ x.covers (k.ringSize c) n = true) ∨ (k.tracker c).frozen = true

/-- Nothing of the blocks behind the link but the trackers' absorbed counts and the holds' absorbed counts has changed:
an absorbed write raised them. -/
structure Core.CountedAbsorbed (k k' : Core) (c : Chan) (n : Nat) : Prop where
  tracker  : ∀ j, k'.tracker j =
    if j = c then { k.tracker c with absorbed := min ((k.tracker c).absorbed + 1) 65535 } else k.tracker j
  holds    : ∀ h, k'.hold h =
    if k.holdAt c n = some h then
      (k.hold h).map fun x => { x with absorbed := min (x.absorbed + 1) 65535 }
    else k.hold h
  pressure : k'.streams.pressure = k.streams.pressure
  times    : k'.streams.lead = k.streams.lead ∧ k'.streams.horizon = k.streams.horizon
  guard    : k'.guard.lastFwd = k.guard.lastFwd ∧ k'.guard.freeze = k.guard.freeze ∧ k'.guard.pLastFwd = k.guard.pLastFwd
               ∧ k'.guard.pFreeze = k.guard.pFreeze
  rest     : k'.hits = k.hits ∧ k'.group = k.group ∧ k'.monitor = k.monitor ∧ k'.check = k.check ∧ k'.writer = k.writer
               ∧ k'.unit = k.unit

/-- A forwarded acquisition write that no block but the guard reacts to: its ring's last forwarded index alone. -/
def Core.forwardedAt (k : Core) (c : Chan) (n : Nat) : Core :=
  { k with guard := { k.guard with lastFwd := put k.guard.lastFwd c (some n) } }

/-- The detector of one channel replaced, everything else as it is. -/
def Core.withDetector (k : Core) (c : Chan) (d : Detector) : Core :=
  { k with hits := { k.hits with det := put k.hits.det c d } }

/-- The FAULT record that a fault forms, and its merging into the queue (R132). -/
def Core.faultRecord (k : Core) (i : FaultInfo) : Record :=
  .fault { first := i, horizon := k.streams.horizon, furtherCount := 0, furtherKinds := 0, furtherChans := 0,
           pressureMark := false }

def Record.isFault : Record → Bool
  | .fault _ => true
  | .hit _ | .event _ | .phase _ | .trigger _ | .freeze _ | .check _ | .loss _ => false

/-- A forwarded pressure write that nothing but the guard reacts to: the pressure ring's last forwarded index alone. -/
def Core.pressureForwardedAt (k : Core) (n : Nat) : Core := { k with guard := { k.guard with pLastFwd := some n } }

/-- A block of the control page lies in the range that the running APPLY fetches (R178). -/
def Core.fetches (k : Core) (b : Nat) : Prop :=
  ∃ tag paths f, k.unit.running = some (.apply tag paths f) ∧ 12 ≤ b ∧ b ≤ if paths then 65 else 33

/-- A cause is raised, which marks the status dirty when it was not pending (R185). -/
def CommandUnit.raised (u : CommandUnit) (mask : Byte) : CommandUnit :=
  { u with pending := u.pending ||| mask, dirty := u.dirty || (u.pending ||| mask) != u.pending }

/-! ### Where a write stands in a stream (R5, R6, R7, R10) -/

/-- A full write at ring index n is placed in the stream of a tracker with `gap` missing blocks before it: the origin, in
order, or a skip below the count limit. -/
structure Core.PlacedAt (k : Core) (c : Chan) (n gap : Nat) : Prop where
  waiting  : (k.tracker c).state = .waiting → gap = 0 ∧ (k.tracker c).count = 0
  tracking : (k.tracker c).state = .tracking →
    gap = (n + k.ringSize c - (k.tracker c).expected) % k.ringSize c ∧ (gap = 0 ∨ gap < k.ringSize c / 2) ∧
      (k.tracker c).count + gap < 2 ^ 35 - 1
  runs     : (k.tracker c).state ≠ .idle

/-- The same for the pressure ring. -/
structure Core.PressurePlacedAt (k : Core) (n gap : Nat) : Prop where
  waiting  : k.streams.pressure.state = .waiting → gap = 0 ∧ k.streams.pressure.count = 0
  tracking : k.streams.pressure.state = .tracking →
    gap = (n + k.pressureEntry.size - k.streams.pressure.expected) % k.pressureEntry.size ∧
      (gap = 0 ∨ gap < k.pressureEntry.size / 2) ∧ k.streams.pressure.count + gap < 2 ^ 32 - 1
  runs     : k.streams.pressure.state ≠ .idle

/-- A write that moves no position and is not analysed: a PARTIAL one into a ring whose stream runs, and a REWRITE, at half the
ring or more ahead of the expected index and below the count limit; with the expected index that its fault names (R8, R9, R13). -/
def Unplaced (st : TrackerState) (expected size count limit n : Nat) (mask : Mask) (kind : FaultKind)
    (named : Option Nat) : Prop :=
  (kind = .partialWrite ∧ mask ≠ BitVec.allOnes 64 ∧
    ((st = .waiting ∧ named = none) ∨ (st = .tracking ∧ named = some expected))) ∨
  (kind = .rewrite ∧ mask = BitVec.allOnes 64 ∧ st = .tracking ∧ named = some expected ∧ count < limit ∧
    size / 2 ≤ (n + size - expected) % size ∧ (n + size - expected) % size ≠ 0)

/-! ### The record ring (R136, R139, R141) -/

/-- The occupied slots stand between the drain and the produce index and leave one slot free; a placement in progress
begins at the produce index and fits the slots left; without a valid record ring everything is 0. -/
structure Core.RingSound (k : Core) : Prop where
  bound     : k.writer.occupancy ≤ k.slots - 1
  drain     : k.writer.drain < k.slots
  produce   : k.writer.produce = (k.writer.drain + k.writer.occupancy) % k.slots
  placement : ∀ p, k.writer.placement = some p →
    p.start = k.writer.produce ∧ p.completed < p.writes ∧ k.writer.occupancy + p.writes ≤ k.slots - 1
  absent    : k.recordEntry.valid = false →
    k.writer.produce = 0 ∧ k.writer.drain = 0 ∧ k.writer.occupancy = 0 ∧ k.writer.placement = none

/-! ### Arrivals and events below the horizon (R50, R51, R59) -/

/-- The lists of the sorter and grouper: in order, within their sizes, and nothing below the horizon left to do. -/
structure Core.GroupingSound (k : Core) : Prop where
  buffers  : k.BuffersSound
  arrivals : ∀ a ∈ k.group.arrivals, k.streams.horizon ≤ a.time
  events   : ∀ i e, look k.group.events i = some e → k.streams.horizon ≤ e.windowEnd

/-! ### The run (R101, R102, R105, R115) -/

/-- Some acoustic ring is COUNTING. -/
def Core.Counting (k : Core) : Prop := ∃ c, (k.freezeOf c).state = .counting

/-- The post-trigger context stands exactly in POST_TRIGGER and FROZEN; a ring is COUNTING exactly in POST_TRIGGER; a check
runs in LISTENING only; in STOPPED nothing runs. -/
structure Core.RunSound (k : Core) : Prop where
  stopped  : k.unit.run = .stopped → k.Quiet
  context  : k.monitor.post.isSome = true ↔ k.unit.run = .postTrigger ∨ k.unit.run = .frozen
  counting : k.Counting ↔ k.unit.run = .postTrigger
  checks   : k.check.state ≠ .idle → k.unit.run = .listening
  queued   : k.check.queued.isSome = true → k.check.state ≠ .idle
  contexts : k.check.state = .idle → ∀ c, (k.detector c).inCheck = false

/-! ### Commands and holds that a statement names -/

/-- The commands other than CLEAR whose block 0 write carries w. -/
def commandsOf (w : PageWrite) : List Instr :=
  [.apply w, .start w, .stop w, .trigger w, .thaw w, .check w, .releaseOne w, .releaseChannel w, .releaseAll w,
    .snapshotChannels w, .snapshotPaths w, .unknownCommand w]

/-- A trigger leaves the ring of a channel COUNTING: it has a ring, is enabled and not stalled (R100). -/
def Core.countsDown (k : Core) (c : Chan) : Prop :=
  k.hasRing c = true ∧ k.enabled c = true ∧ (k.tracker c).stalled = false

/-- A hold is selected by a RELEASE, by its scope (R86). -/
def releases (b : Block) (h : Fin 64) (x : Hold) : Bool :=
  match releaseScope b with
  | 1 => h.val == releaseHoldNumber b && x.owner == releaseHit b
  | 2 => x.chan.val == releaseChan b
  | 3 => true
  | _ => false

/-- An entry of the hold table that is in use and selected by a RELEASE. -/
def Core.released (k : Core) (b : Block) (h : Fin 64) : Bool :=
  match k.hold h with
  | some x => releases b h x
  | none => false

/-! ### Records handed over, hits closing (R46, R76, R131, R142) -/

/-- A sheddable record has been handed to the record writer: with room it is queued, in SHEDDING it is discarded on arrival,
and with the sheddable share full outside SHEDDING the discard raises LOSS. -/
structure Core.HandedOver (k k' : Core) (r : Record) : Prop where
  room     : k.writer.mode ≠ .shedding → (k.writer.queue.filter Record.sheddable).length < 11 →
    k'.writer = { k.writer with queue := k.writer.queue ++ [r] }
  shedding : k.writer.mode = .shedding → k'.writer.queue = k.writer.queue ∧ k'.writer.mode = .shedding ∧
    k'.writer.loss.onArrival = min (k.writer.loss.onArrival + 1) 65535
  full     : k.writer.mode ≠ .shedding → 11 ≤ (k.writer.queue.filter Record.sheddable).length →
    (∃ m, k'.writer.mode = m ∧ (m = .shedding ∨ m = .placing)) ∧ k'.unit.pending &&& 128 = 128

/-- The range that the guard hands to a closing hit. -/
def Core.closingRange (k : Core) : HitHold → Option (Nat × Nat)
  | .held h => (k.hold h).map fun x => (x.first, x.count)
  | .noHold _ => none

/-- The hold of a hit that has closed: HELD with its count reserved, or FREE when its range is empty; every other entry
stays. -/
def Core.HoldClosed (k k' : Core) (hh : HitHold) : Prop :=
  ∀ g, k'.hold g =
    if hh = .held g then
      (k.hold g).bind fun x => if x.count = 0 then none else some { x with state := .held, reserved := x.count }
    else k.hold g

/-- What the closing of a hit leaves as it is: everything but the detector of its channel, the hold table, the record
writer, and the pending causes and dirty mark. -/
structure Core.CloseKept (k k' : Core) (c : Chan) : Prop where
  streams  : k'.streams = k.streams
  group    : k'.group = k.group
  monitor  : k'.monitor = k.monitor
  check    : k'.check = k.check
  nextHit  : k'.hits.nextHit = k.hits.nextHit
  others   : ∀ j, j ≠ c → k'.detector j = k.detector j
  freezes  : k'.guard.freeze = k.guard.freeze ∧ k'.guard.lastFwd = k.guard.lastFwd
  settings : k'.unit.settings = k.unit.settings ∧ k'.unit.run = k.unit.run
  ring     : k'.writer.produce = k.writer.produce ∧ k'.writer.occupancy = k.writer.occupancy

/-! ### Completions (R165, R166) -/

/-- What a complete entry returns. -/
def Accepted.returned (e : Accepted) : Option Returned :=
  match e.cond with
  | .complete r => some r
  | .waiting | .issued => none

/-- The port's oldest entries that are complete have been returned, in order; the queue goes on with the first that is not. -/
def PortState.drained (q : PortState) (es : List Accepted) : PortState :=
  { q with
    accepted := es.dropWhile Accepted.isComplete
    returned := q.returned ++ (es.takeWhile Accepted.isComplete).filterMap Accepted.returned }

/-- The oldest issued request has been completed and leaves the issued list; nothing else of the link moves but the
presentations. -/
structure State.InternalDone (s t : State) (rest : List Issued) : Prop where
  pins   : s.PinsKept t
  acq    : t.acq = s.acq
  host   : t.host = s.host
  issued : t.issued = rest

end Sys2Proof.Machine
end

