-- ==== Sys2Proof/Certificates/Slice0/Obligations.lean ====
section
/-! DEFINITION. The statements for the provers. `t` is the state after, `s` the state before. -/

open Sys2Proof Sys2Proof.Machine

/-! ### The step -/

/-- A step takes the command at the front of the queue and runs it on the state with the queue's rest. -/
def Obligations.StepRunsFront : Prop :=
  ∀ (c : Instr) (rest : List Instr) (s : State), step { s with pending := c :: rest } = exec c { s with pending := rest }

/-- With no command pending: when no port can accept, the part idles; when the host port alone can and a read stands at the
front of its link, the read leaves the link and waits, and nothing behind the link changes (R161; that a step does this, and
that it idles, is log 3). -/
def Obligations.StepAcceptsOrIdles : Prop :=
  ∀ s : State, s.pending = [] → s.canAccept .acquisition = false →
    (s.canAccept .host = false → step s = .next s) ∧
    ∀ (addr : BlockAddr) (len : Fin 8) (rest : List Request), s.linkReset = false →
      s.host.link = .read addr len :: rest → s.host.accepted.length < 16 → s.host.settled = true →
      ∃ t, step s = .next t ∧ s.PinsKept t ∧ t.core = s.core ∧ t.acq = s.acq ∧ t.issued = s.issued ∧
        t.host = { s.host with
          link := rest
          accepted := s.host.accepted ++ [{ request := .read addr len, places := s.placesOf (.read addr len),
                                            startsFetch := false, cond := .waiting }] }

/-! ### Resets -/

/-- POWER_ON samples the straps and sets every block, the link and the command unit to their power-on values, with the path
table all NEVER (R22, R45, R53, R66, R89, R114, R119, R128, R150, R171, R187). That the commands still queued stay is the
model's own choice (log 24). -/
def Obligations.PowerOnResets : Prop :=
  ∀ (straps : BitVec 16) (s : State), ∃ t, exec (.powerOn straps) s = .next t ∧ t.strap = straps ∧ t.core.AllReset ∧
    t.core.unit.Fresh ∧ (∀ f j, look (look t.core.group.path f) j = never) ∧ t.core.check.select = 0 ∧
    t.acq.accepted = [] ∧ t.host.accepted = [] ∧ t.issued = [] ∧ t.arb.lastGrant = .host ∧ t.arb.waitCount = 0 ∧
    t.arb.answer = none ∧ t.arb.engine = false ∧ t.arb.record = false ∧ t.arb.abandoned = none ∧ t.pending = s.pending

/-- LINK_RESET drops every accepted and issued request, withdraws the presentations, and sets every block to its link reset
value; the strap and the path table stay (R22, R45, R53, R66, R89, R114, R119, R128, R150, R171, R187). That the requests on
the links stay is log 21; that the completions already returned, which are the model's own output, stay is log 20; that the
last reading of the time reference stays is log 2, and that the commands still queued stay is log 24. -/
def Obligations.LinkResetDrops : Prop :=
  ∀ s : State, ∃ t, exec .linkReset s = .next t ∧ t.linkReset = true ∧ t.strap = s.strap ∧ t.timeRef = s.timeRef ∧
    t.core.AllReset ∧ t.core.unit.Fresh ∧ t.core.group.path = s.core.group.path ∧ t.core.check.select = 0 ∧
    t.acq = { s.acq with accepted := [] } ∧ t.host = { s.host with accepted := [] } ∧ t.issued = [] ∧
    t.arb.lastGrant = .host ∧ t.arb.waitCount = 0 ∧ t.arb.answer = none ∧ t.arb.engine = false ∧ t.arb.record = false ∧
    t.arb.abandoned = none ∧ t.pending = s.pending

/-- LINK_RESET_RELEASE deasserts the line and changes nothing else but the presentations to the arbiter (R171). -/
def Obligations.LinkResetReleaseFrees : Prop :=
  ∀ s : State, ∃ t, exec .linkResetRelease s = .next t ∧ t.linkReset = false ∧ t.core = s.core ∧ t.acq = s.acq ∧
    t.host = s.host ∧ t.issued = s.issued ∧ t.strap = s.strap ∧ t.timeRef = s.timeRef ∧ t.pending = s.pending ∧
    t.arb.lastGrant = s.arb.lastGrant

/-- CLEAR, in any run state, command state and halted or not: every block takes its CLEAR value, the settings, the applied
flag, the path table, the select value, the latest answer and the refusal word stay; a running command is answered ABORTED
and CLEAR is answered DONE, the last two of the answers being due; the answer writer waits for nothing, and a request that it
was presenting stays presented; what the record writer and the fetch and snapshot engine were presenting is withdrawn; the
internal entries of the issued list are discarded and both accepted queues stay (R168, R183). -/
def Obligations.ClearResetsRun : Prop :=
  ∀ (w : PageWrite) (s : State), s.Ready .host → commandKind (commandCode (pageData w)) = .clear →
    ∃ t, exec (.clear w) s = .next t ∧ s.PinsKept t ∧ t.core.AllReset ∧ t.core.group.path = s.core.group.path ∧
      t.core.check.select = s.core.check.select ∧ t.core.unit.settings = s.core.unit.settings ∧
      t.core.unit.applied = s.core.unit.applied ∧ t.core.unit.latest = s.core.unit.latest ∧
      t.core.unit.refusal = s.core.unit.refusal ∧ t.core.unit.refusalMark = s.core.unit.refusalMark ∧
      t.core.unit.awaiting = false ∧
      (∃ old, old ++ t.core.unit.due = s.core.unit.due ++ (s.core.unit.running.map Running.aborted).toList ++
          [{ tag := commandTag (pageData w), code := commandCode (pageData w), result := some .done, detail := .plain }] ∧
        t.core.unit.due.length = min 2 (old ++ t.core.unit.due).length) ∧
      t.issued.map Issued.request = s.issued.map Issued.request ∧ t.issued.map Issued.owner = s.issued.map Issued.owner ∧
      (∀ i ∈ t.issued, (∀ p, i.owner ≠ .port p) → i.discarded = true) ∧
      t.arb.engine = false ∧ t.arb.record = false ∧ t.arb.abandoned = none ∧
      (s.arb.answer ≠ none → t.arb.answer = s.arb.answer) ∧ t.acq = s.acq ∧ t.host.returned = s.host.returned ∧ t.host.link = [] ∧
      t.host.accepted.map Accepted.request =
        s.host.accepted.map Accepted.request ++ [.write { addr := s.pageAddr 0, data := w.data, mask := w.mask }] ∧
      t.host.accepted.map Accepted.cond = s.host.accepted.map Accepted.cond ++ [.waiting]

/-! ### Taking and refusing commands -/

/-- Every command but CLEAR written in BUSY is refused: the refusal word and mark, the REFUSED cause, and nothing else
(R173). -/
def Obligations.BusyRefuses : Prop :=
  ∀ (w : PageWrite) (s : State), s.Ready .host → commandKind (commandCode (pageData w)) ≠ .clear →
    s.core.unit.busy = true → ∀ i ∈ commandsOf w,
    ∃ t, exec i s = .next t ∧ s.PageTaken t 0 w false ∧
      t.core = { s.core with unit := { s.core.unit with
        refusal := { tag := commandTag (pageData w), code := commandCode (pageData w), busy := true }
        refusalMark := true
        pending := s.core.unit.pending ||| 4
        dirty := s.core.unit.dirty || (s.core.unit.pending ||| 4) != s.core.unit.pending } }

/-- A command in READY that is refused is answered and changes nothing else: a code that is not 1 to 9; START outside STOPPED,
before any APPLY, and with a TRIGGER or FREEZE record unplaced; STOP and TRIGGER in STOPPED; THAW outside FROZEN, and with its
FREEZE record unplaced; CHECK by the first of its tests that fails; RELEASE and SNAPSHOT with a field out of range (R117, R173,
R175, R176, R177, R182; that the RELEASE and SNAPSHOT rows stand for every such field is log 29). -/
def Obligations.RefusedIsAnswered : Prop :=
  ∀ (w : PageWrite) (s : State) (i : Instr) (r : AnswerResult), s.Ready .host → s.core.unit.busy = false →
    let kind := commandKind (commandCode (pageData w))
    let u := s.core.unit
    let src := checkSource (pageData w)
    let window := checkWindow (pageData w)
    let listens := u.run = .listening ∧ s.core.check.state = .idle
    let fields := src < 32 ∧ 16 ≤ window ∧ window ≤ 4095
    ((i = .unknownCommand w ∧ (commandCode (pageData w) = 0 ∨ 9 < (commandCode (pageData w)).toNat) ∧ r = .unknown) ∨
      (i = .start w ∧ kind = .start ∧
        ((u.run ≠ .stopped ∧ r = .wrongState) ∨
          (u.run = .stopped ∧ u.applied = false ∧ r = .notApplied) ∨
          (u.run = .stopped ∧ u.applied = true ∧
            (s.core.writer.unplacedTrigger = true ∨ s.core.writer.unplacedFreeze = true) ∧ r = .pending))) ∨
      (i = .stop w ∧ kind = .stop ∧ u.run = .stopped ∧ r = .wrongState) ∨
      (i = .trigger w ∧ kind = .trigger ∧ u.run = .stopped ∧ r = .wrongState) ∨
      (i = .thaw w ∧ kind = .thaw ∧
        ((u.run ≠ .frozen ∧ r = .wrongState) ∨
          (u.run = .frozen ∧ s.core.writer.unplacedFreeze = true ∧ r = .pending))) ∨
      (i = .check w ∧ kind = .check ∧
        ((¬listens ∧ r = .wrongState) ∨
          (listens ∧ s.core.writer.unplacedCheck = true ∧ r = .pending) ∨
          (listens ∧ s.core.writer.unplacedCheck = false ∧ ¬fields ∧ r = .invalidField) ∨
          (listens ∧ s.core.writer.unplacedCheck = false ∧ fields ∧
            (∀ c : Chan, c.val = src → ¬(s.core.enabled c = true ∧ (s.core.tracker c).stalled = false)) ∧
            r = .sourceUnavailable))) ∨
      (i ∈ [.releaseOne w, .releaseChannel w, .releaseAll w] ∧ kind = .release ∧
        ((releaseScope (pageData w) = 1 ∧ 63 < releaseHoldNumber (pageData w)) ∨
          (releaseScope (pageData w) = 2 ∧ 31 < releaseChan (pageData w)) ∨
          releaseScope (pageData w) = 0 ∨ 3 < releaseScope (pageData w)) ∧ r = .invalidField) ∨
      (i ∈ [.snapshotChannels w, .snapshotPaths w] ∧ kind = .snapshot ∧
        (snapshotTarget (pageData w) = 0 ∨ 2 < snapshotTarget (pageData w)) ∧ r = .invalidField)) →
    ∃ t, exec i s = .next t ∧ s.PageTaken t 0 w false ∧
      t.core = { s.core with unit := { u with
        due := [{ tag := commandTag (pageData w), code := commandCode (pageData w), result := some r, detail := .plain }]
        dirty := true } }

/-! ### Commands that act -/

/-- START taken: trackers WAITING where they have a ring, detectors ARMED where enabled with their threshold in force,
sorter, grouper, monitor and freeze states at their START values, run state LISTENING, answer DONE; holds, path table,
record writer and settings stay (R21, R48, R64, R88, R114, R128, R175). The strobe falls at once, which is log 30; that the
check unit's fields without meaning in IDLE stay as they are is the model's own choice (log 34). -/
def Obligations.StartSetsUpRun : Prop :=
  ∀ (w : PageWrite) (s : State), s.Ready .host → s.core.unit.busy = false →
    commandKind (commandCode (pageData w)) = .start → s.core.unit.run = .stopped → s.core.unit.applied = true →
    s.core.writer.unplacedTrigger = false → s.core.writer.unplacedFreeze = false →
    ∃ t, exec (.start w) s = .next t ∧ s.PageTaken t 0 w false ∧
      (∀ c, t.core.tracker c =
        { state := if s.core.hasRing c then .waiting else .idle, origin := none, expected := 0, count := 0,
          stalled := false, frozen := false, absorbed := 0, faults := 0 }) ∧
      t.core.streams.pressure =
        { state := if s.core.pressureEntry.valid then .waiting else .idle, origin := none, expected := 0, count := 0,
          frozen := false } ∧
      t.core.streams.lead = 0 ∧ t.core.streams.horizon = 0 ∧
      (∀ c, t.core.detector c =
        if s.core.enabled c then
          { state := .armed none, threshold := thresholdFor (s.core.settingsOf c) 0, noise := 0, prev := 0 }
        else { state := .idle, threshold := (s.core.detector c).threshold, noise := 0, prev := 0 }) ∧
      t.core.hits.nextHit = 0 ∧
      t.core.group.arrivals = [] ∧ t.core.group.lastTaken = none ∧ (∀ i, look t.core.group.events i = none) ∧
      t.core.group.nextEvent = 0 ∧ t.core.group.refused = 0 ∧ t.core.group.late = 0 ∧ t.core.group.forced = 0 ∧
      t.core.group.sparse = 0 ∧ t.core.group.path = s.core.group.path ∧
      t.core.guard.holds = s.core.guard.holds ∧ (∀ c, t.core.lastForwarded c = none) ∧ t.core.guard.pLastFwd = none ∧
      (∀ c, t.core.freezeOf c = { state := .none, point := none }) ∧
      t.core.guard.pFreeze = { state := .none, point := none } ∧
      t.core.monitor = { t.core.monitor with
        fifo := [], pmax := 0, phase := .quiet, arming := .unarmed, tt := 0, post := none } ∧
      t.core.check = { s.core.check with strobe := false } ∧ t.core.writer = s.core.writer ∧
      t.core.unit = { s.core.unit with
        run := .listening
        due := [{ tag := commandTag (pageData w), code := commandCode (pageData w), result := some .done,
                  detail := .plain }]
        dirty := true }

/-- STOP taken: trackers and detectors IDLE, nothing listed or open in the grouper, no check, no trigger, no freeze, run
state STOPPED, answer DONE; positions, counts, stalled flags, times, noise, pressure values, last forwarded indices, the
path table, the ring indices and the settings stay (R21, R42, R65, R101, R110, R126, R147, R176). -/
def Obligations.StopEndsRun : Prop :=
  ∀ (w : PageWrite) (s : State), s.Ready .host → s.core.unit.busy = false →
    commandKind (commandCode (pageData w)) = .stop → s.core.unit.run ≠ .stopped →
    ∃ t, exec (.stop w) s = .next t ∧ s.PageTaken t 0 w false ∧
      t.core.unit.run = .stopped ∧ t.core.unit.settings = s.core.unit.settings ∧
      t.core.unit.due =
        [{ tag := commandTag (pageData w), code := commandCode (pageData w), result := some .done, detail := .plain }] ∧
      (∀ c, t.core.tracker c = { s.core.tracker c with state := .idle, frozen := false }) ∧
      t.core.streams.pressure = { s.core.streams.pressure with state := .idle, frozen := false } ∧
      t.core.streams.lead = s.core.streams.lead ∧ t.core.streams.horizon = s.core.streams.horizon ∧
      (∀ c, t.core.detector c = { s.core.detector c with state := .idle }) ∧
      t.core.hits.nextHit = s.core.hits.nextHit ∧
      t.core.group.arrivals = [] ∧ (∀ i, look t.core.group.events i = none) ∧ t.core.group.path = s.core.group.path ∧
      t.core.check.state = .idle ∧
      t.core.monitor = { s.core.monitor with post := none } ∧
      (∀ c, t.core.freezeOf c = { state := .none, point := none }) ∧
      t.core.guard.pFreeze = { state := .none, point := none } ∧
      t.core.guard.lastFwd = s.core.guard.lastFwd ∧ t.core.guard.pLastFwd = s.core.guard.pLastFwd ∧
      t.core.writer.produce = s.core.writer.produce ∧ t.core.writer.drain = s.core.writer.drain ∧
      t.core.writer.occupancy = s.core.writer.occupancy ∧ t.core.writer.nextNumber = s.core.writer.nextNumber ∧
      t.core.writer.halted = s.core.writer.halted ∧ t.core.writer.loss.counted = false

/-- TRIGGER in LISTENING. With no check running it is taken: Tt, the post-trigger context and the TRIGGER record; each ring's
freeze state; POST_TRIGGER while some ring counts, else FROZEN at once; answer TAKEN. The arming state, holds, arrivals, events,
path table, positions and settings stay. With a check running under QUEUE it is queued with the check unit, answer QUEUED, or
raises the extra count of the trigger queued there, answer EXTRA with the count; nothing else changes. Under ABANDON the check
ends ABANDONED, with its CHECK record before the TRIGGER record and its detectors back in ARMED, and the trigger is taken, answer
TAKEN, or the queued one is taken with its source and count, and this one is an extra trigger, answer EXTRA with the count (R98,
R99, R100, R103, R106, R107, R108, R112). -/
def Obligations.TriggerTaken : Prop :=
  ∀ (w : PageWrite) (s : State), s.Ready .host → s.core.unit.busy = false →
    commandKind (commandCode (pageData w)) = .trigger → s.core.unit.run = .listening →
    let answer (outcome : TriggerOutcome) (count : Nat) : List Answer :=
      [{ tag := commandTag (pageData w), code := commandCode (pageData w), result := some .done,
         detail := .trigger outcome count }]
    (s.core.check.state = .idle →
      ∃ t, exec (.trigger w) s = .next t ∧ s.PageTaken t 0 w false ∧
        t.core.unit.due = answer .taken 0 ∧
        t.core.monitor = { s.core.monitor with
          tt := s.core.streams.horizon
          post := some
            { source := .command, freezeTime := s.core.streams.horizon + 32 * s.core.global.postTrigger,
              tp := s.core.streams.pressure.count,
              freezeNumber := s.core.streams.pressure.count + s.core.global.postTriggerP, extra := 0 } } ∧
        (∃ r rest, t.core.writer.queue = s.core.writer.queue ++ .trigger r :: rest ∧ r.source = .command ∧
          r.queued = false ∧ r.checkAbandoned = false ∧ r.tt = s.core.streams.horizon ∧ r.lead = s.core.streams.lead ∧
          r.freezeTime = s.core.streams.horizon + 32 * s.core.global.postTrigger ∧ r.tp = s.core.streams.pressure.count ∧
          r.mean = s.core.monitor.mean ∧ r.pmax = s.core.monitor.pmax ∧ r.phase = s.core.monitor.phase ∧
          r.queuedExtra = 0) ∧
        t.core.unit.pending &&& 8 = 8 ∧
        (∀ c, (t.core.freezeOf c).state =
          if s.core.hasRing c = false then .noRing
          else if s.core.enabled c = false then .disabled
          else if (s.core.tracker c).stalled = true then .stalled
          else .counting) ∧
        ((∃ c, s.core.countsDown c) → t.core.unit.run = .postTrigger) ∧
        ((∀ c, ¬s.core.countsDown c) → t.core.unit.run = .frozen) ∧
        t.core.guard.holds = s.core.guard.holds ∧ t.core.group = s.core.group ∧ t.core.hits.nextHit = s.core.hits.nextHit ∧
        t.core.unit.settings = s.core.unit.settings ∧ t.core.check = s.core.check ∧
        (∀ c, t.core.tracker c =
          { s.core.tracker c with
            frozen := (s.core.tracker c).frozen ||
              (s.core.hasRing c && (!s.core.enabled c || (s.core.tracker c).stalled)) })) ∧
    (s.core.check.state ≠ .idle → s.core.global.triggerInCheck = .queue →
      ∃ t, exec (.trigger w) s = .next t ∧ s.PageTaken t 0 w false ∧
        (s.core.check.queued = none → t.core = { s.core with
          check := { s.core.check with queued := some { source := .command, extra := 0 } }
          unit := { s.core.unit with due := answer .queued 0, dirty := true } }) ∧
        (∀ q, s.core.check.queued = some q → t.core = { s.core with
          check := { s.core.check with queued := some { q with extra := min (q.extra + 1) 65535 } }
          unit := { s.core.unit with due := answer .extra (min (q.extra + 1) 65535), dirty := true } })) ∧
    (s.core.check.state ≠ .idle → s.core.global.triggerInCheck = .abandon →
      ∃ t p, exec (.trigger w) s = .next t ∧ s.PageTaken t 0 w false ∧
        t.core.check.state = .idle ∧ t.core.check.queued = none ∧
        (∃ r r' rest, t.core.writer.queue = s.core.writer.queue ++ .check r :: .trigger r' :: rest ∧
          r.reason = .abandoned ∧ r.cause = some .trigger ∧ r.source = s.core.check.source ∧ r.pathUpdated = false ∧
          r.triggerQueued = s.core.check.queued.isSome ∧ r'.checkAbandoned = true ∧
          r'.queued = s.core.check.queued.isSome ∧ r'.source = p.source ∧ r'.tt = s.core.streams.horizon ∧
          r'.queuedExtra = (s.core.check.queued.map QueuedTrigger.extra).getD 0) ∧
        t.core.writer.unplacedCheck = true ∧ t.core.writer.unplacedTrigger = true ∧
        t.core.unit.pending &&& 40 = 40 ∧
        (∀ j, (s.core.detector j).inCheck = true →
          (t.core.detector j).state = .armed none ∧
          (t.core.detector j).threshold = thresholdFor (s.core.settingsOf j) (s.core.detector j).noise) ∧
        t.core.monitor = { s.core.monitor with tt := s.core.streams.horizon, post := some p } ∧
        p.freezeTime = s.core.streams.horizon + 32 * s.core.global.postTrigger ∧ p.tp = s.core.streams.pressure.count ∧
        p.freezeNumber = s.core.streams.pressure.count + s.core.global.postTriggerP ∧
        (s.core.check.queued = none → p.source = .command ∧ p.extra = 0 ∧ t.core.unit.due = answer .taken 0) ∧
        (∀ q, s.core.check.queued = some q → p.source = q.source ∧ p.extra = min (q.extra + 1) 65535 ∧
          t.core.unit.due = answer .extra (min (q.extra + 1) 65535)) ∧
        (t.core.unit.run = .postTrigger ∨ t.core.unit.run = .frozen) ∧
        t.core.group = s.core.group ∧ t.core.guard.holds = s.core.guard.holds ∧
        t.core.hits.nextHit = s.core.hits.nextHit ∧ t.core.unit.settings = s.core.unit.settings)

/-- TRIGGER in POST_TRIGGER or FROZEN is an extra trigger: it raises the extra-trigger count and is answered EXTRA with the
count; nothing else changes (R98, R106). -/
def Obligations.ExtraTriggerCounts : Prop :=
  ∀ (w : PageWrite) (s : State) (p : PostTrigger), s.Ready .host → s.core.unit.busy = false →
    commandKind (commandCode (pageData w)) = .trigger →
    (s.core.unit.run = .postTrigger ∨ s.core.unit.run = .frozen) → s.core.monitor.post = some p →
    ∃ t, exec (.trigger w) s = .next t ∧ s.PageTaken t 0 w false ∧
      t.core = { s.core with
        monitor := { s.core.monitor with post := some { p with extra := min (p.extra + 1) 65535 } }
        unit := { s.core.unit with
          due := [{ tag := commandTag (pageData w), code := commandCode (pageData w), result := some .done,
                    detail := .trigger .extra (min (p.extra + 1) 65535) }]
          dirty := true } }

/-- THAW is refused WRONG_STATE outside FROZEN and PENDING while the FREEZE record is unplaced. Else it is taken: frozen
flags clear, freeze states NONE, the context gone, P_max the newest mean, UNARMED, LISTENING; every other block stays
(R109, R188). -/
def Obligations.ThawEndsFreeze : Prop :=
  ∀ (w : PageWrite) (s : State), s.Ready .host → s.core.unit.busy = false →
    commandKind (commandCode (pageData w)) = .thaw →
    (∀ r : AnswerResult,
      ((s.core.unit.run ≠ .frozen ∧ r = .wrongState) ∨
        (s.core.unit.run = .frozen ∧ s.core.writer.unplacedFreeze = true ∧ r = .pending)) →
      ∃ t, exec (.thaw w) s = .next t ∧ s.PageTaken t 0 w false ∧
        t.core = { s.core with unit := { s.core.unit with
          due := [{ tag := commandTag (pageData w), code := commandCode (pageData w), result := some r, detail := .plain }]
          dirty := true } }) ∧
    ∀ p : PostTrigger, s.core.unit.run = .frozen → s.core.writer.unplacedFreeze = false → s.core.monitor.post = some p →
    ∃ t, exec (.thaw w) s = .next t ∧ s.PageTaken t 0 w false ∧
      (∀ c, t.core.tracker c = { s.core.tracker c with frozen := false }) ∧
      t.core.streams.pressure = { s.core.streams.pressure with frozen := false } ∧
      t.core.streams.lead = s.core.streams.lead ∧ t.core.streams.horizon = s.core.streams.horizon ∧
      (∀ c, t.core.freezeOf c = { state := .none, point := none }) ∧
      t.core.guard.pFreeze = { state := .none, point := none } ∧ t.core.guard.holds = s.core.guard.holds ∧
      t.core.guard.lastFwd = s.core.guard.lastFwd ∧ t.core.guard.pLastFwd = s.core.guard.pLastFwd ∧
      t.core.monitor = { s.core.monitor with
        pmax := (s.core.monitor.fifo.getLast?).getD 0, arming := .unarmed, post := none } ∧
      t.core.hits = s.core.hits ∧ t.core.group = s.core.group ∧ t.core.check = s.core.check ∧
      t.core.writer = s.core.writer ∧
      t.core.unit = { s.core.unit with
        run := .listening
        due := [{ tag := commandTag (pageData w), code := commandCode (pageData w), result := some .done,
                  detail := .thaw p.extra }]
        dirty := true }

/-- CHECK taken: every enabled detector out of IDLE is in CHECK with an empty context and its threshold in force, the others
stay; the check unit is FIRING with the source's stream time as fire time, its marks set, the select lines on the source and
the strobe active; the answer carries the fire time. Trackers, grouper, monitor and settings stay (R43, R118, R119). -/
def Obligations.CheckFires : Prop :=
  ∀ (w : PageWrite) (s : State) (c : Chan), s.Ready .host → s.core.unit.busy = false →
    commandKind (commandCode (pageData w)) = .check → s.core.unit.run = .listening → s.core.check.state = .idle →
    s.core.writer.unplacedCheck = false → checkSource (pageData w) = c.val → 16 ≤ checkWindow (pageData w) →
    checkWindow (pageData w) ≤ 4095 → s.core.enabled c = true → (s.core.tracker c).stalled = false →
    ∃ t, exec (.check w) s = .next t ∧ s.PageTaken t 0 w false ∧
      t.core.check.state = .firing ∧ t.core.check.source = c ∧ t.core.check.window = checkWindow (pageData w) ∧
      t.core.check.update = checkUpdate (pageData w) ∧ t.core.check.fireTime = 32 * (s.core.tracker c).count ∧
      t.core.check.t0 = none ∧ t.core.check.queued = none ∧ t.core.check.select.toNat = c.val ∧
      t.core.check.strobe = true ∧ (∀ j, look t.core.check.stalled j = (s.core.tracker j).stalled) ∧
      (∀ j, look t.core.check.disabled j = !(t.core.detector j).inCheck) ∧
      (∀ j, t.core.detector j =
        if s.core.enabled j = true ∧ (s.core.detector j).state ≠ .idle then
          { s.core.detector j with
            state := .check { retained := [], overflow := false, peak := 0 }
            threshold := thresholdFor (s.core.settingsOf j) (s.core.detector j).noise }
        else s.core.detector j) ∧
      t.core.unit.due =
        [{ tag := commandTag (pageData w), code := commandCode (pageData w), result := some .done,
           detail := .check (32 * (s.core.tracker c).count) }] ∧
      t.core.unit.run = .listening ∧ t.core.unit.settings = s.core.unit.settings ∧ t.core.streams = s.core.streams ∧
      t.core.group = s.core.group ∧ t.core.monitor = s.core.monitor ∧ t.core.hits.nextHit = s.core.hits.nextHit

/-- RELEASE with scope ONE, CHANNEL or ALL and fields in range: exactly the selected holds become FREE; the answer carries
their number and the sum of their absorbed counts; every other entry stays, and so do the trackers, the grouper, the
monitor, the check unit, the record writer and the settings (R83, R86, R177). -/
def Obligations.ReleaseFreesHolds : Prop :=
  ∀ (w : PageWrite) (s : State) (i : Instr), s.Ready .host → s.core.unit.busy = false →
    commandKind (commandCode (pageData w)) = .release →
    ((i = .releaseOne w ∧ releaseScope (pageData w) = 1 ∧ releaseHoldNumber (pageData w) ≤ 63) ∨
      (i = .releaseChannel w ∧ releaseScope (pageData w) = 2 ∧ releaseChan (pageData w) ≤ 31) ∨
      (i = .releaseAll w ∧ releaseScope (pageData w) = 3)) →
    let hs := (List.finRange 64).filter (s.core.released (pageData w))
    ∃ t, exec i s = .next t ∧ s.PageTaken t 0 w false ∧
      (∀ h, t.core.hold h = if s.core.released (pageData w) h then none else s.core.hold h) ∧
      t.core.unit = { s.core.unit with
        due := [{ tag := commandTag (pageData w), code := commandCode (pageData w), result := some .done,
                  detail := .release hs.length ((hs.map s.core.holdAbsorbed).sum) }]
        dirty := true } ∧
      t.core.streams = s.core.streams ∧ t.core.group = s.core.group ∧ t.core.monitor = s.core.monitor ∧
      t.core.check = s.core.check ∧ t.core.writer = s.core.writer ∧ t.core.hits.nextHit = s.core.hits.nextHit ∧
      t.core.guard.lastFwd = s.core.guard.lastFwd ∧ t.core.guard.freeze = s.core.guard.freeze

/-- APPLY and SNAPSHOT in READY: the command runs. APPLY has nothing fetched, its disturbance mark is clear, and its own write
is marked, for the fetch waits for that write's completion; SNAPSHOT has no write granted yet. Nothing else changes (R178,
R182). -/
def Obligations.LongCommandsBegin : Prop :=
  ∀ (w : PageWrite) (s : State), s.Ready .host → s.core.unit.busy = false →
    (commandKind (commandCode (pageData w)) = .apply →
      ∃ t, exec (.apply w) s = .next t ∧ s.PageTaken t 0 w true ∧
        t.core = { s.core with unit := { s.core.unit with
          running := some (.apply (commandTag (pageData w)) (applyWithPaths (pageData w))
            { started := false, granted := 0, completed := 0, failed := false, data := [] })
          disturbed := false
          dirty := true } }) ∧
    ∀ (i : Instr) (target : SnapshotTarget), commandKind (commandCode (pageData w)) = .snapshot →
      ((i = .snapshotChannels w ∧ snapshotTarget (pageData w) = 1 ∧ target = .channels) ∨
        (i = .snapshotPaths w ∧ snapshotTarget (pageData w) = 2 ∧ target = .paths)) →
      ∃ t, exec i s = .next t ∧ s.PageTaken t 0 w false ∧
        t.core = { s.core with unit := { s.core.unit with
          running := some (.snapshot (commandTag (pageData w)) target 0 0), dirty := true } }

/-- ACKNOWLEDGE removes from the pending causes each cause whose bit is set, marks the status dirty if that changed them, and
changes nothing else (R185). -/
def Obligations.AcknowledgeClearsCauses : Prop :=
  ∀ (w : PageWrite) (s : State), s.Ready .host →
    ∃ t, exec (.acknowledge w) s = .next t ∧ s.PageTaken t 1 w false ∧
      t.core = { s.core with unit := { s.core.unit with
        pending := s.core.unit.pending &&& ~~~(byteAt (pageData w) 0)
        dirty := s.core.unit.dirty || (s.core.unit.pending &&& ~~~(byteAt (pageData w) 0)) != s.core.unit.pending } }

/-! ### Writes into the rings -/

/-- Ring writes that meet the guard alone: an acquisition write into a ring, acoustic or pressure, whose tracker is IDLE or at
the count limit, and every host write into a ring. An acoustic one is absorbed exactly when its index is protected, and then
only the absorbed counts change; a pressure one exactly when the ring is frozen, and then nothing changes. A forwarded
acquisition write becomes its ring's last forwarded index, and a forwarded host write changes nothing (R4, R10, R12, R78, R80,
R81, R101; that a write at the limit is not placed is log 15). -/
def Obligations.RingWritesMeetGuard : Prop :=
  ∀ (w : BlockWrite) (s : State),
    (s.Ready .acquisition → ∀ c n, s.place w.addr.toNat = .acoustic c n →
      ((s.core.tracker c).state = .idle ∨
        ((s.core.tracker c).state = .tracking ∧ w.mask = BitVec.allOnes 64 ∧
          (s.core.tracker c).count = 2 ^ 35 - 1)) →
      ∃ t absorbed, exec (.acousticRingWrite w) s = .next t ∧ s.AcquisitionTaken t w absorbed ∧
        (absorbed = true ↔ s.core.Protected c n) ∧
        (absorbed = true → s.core.CountedAbsorbed t.core c n) ∧
        (absorbed = false → t.core = s.core.forwardedAt c n)) ∧
    (s.Ready .acquisition → ∀ n, s.place w.addr.toNat = .pressure n →
      (s.core.streams.pressure.state = .idle ∨
        (s.core.streams.pressure.state = .tracking ∧ w.mask = BitVec.allOnes 64 ∧
          s.core.streams.pressure.count = 2 ^ 32 - 1)) →
      ∃ t, exec (.pressureRingWrite w) s = .next t ∧ s.AcquisitionTaken t w s.core.streams.pressure.frozen ∧
        t.core = if s.core.streams.pressure.frozen then s.core else s.core.pressureForwardedAt n) ∧
    (s.Ready .host → ∀ c n, s.place w.addr.toNat = .acoustic c n →
      ∃ t absorbed, exec (.hostRingWrite w) s = .next t ∧ s.HostWriteTaken t w absorbed ∧
        (absorbed = true ↔ s.core.Protected c n) ∧ (absorbed = false → t.core = s.core) ∧
        (absorbed = true → s.core.CountedAbsorbed t.core c n)) ∧
    (s.Ready .host → ∀ n, s.place w.addr.toNat = .pressure n →
      ∃ t, exec (.hostRingWrite w) s = .next t ∧ s.HostWriteTaken t w s.core.streams.pressure.frozen ∧ t.core = s.core)

/-- A PARTIAL or REWRITE write into a ring moves no position and is not analysed: a FAULT record is queued when none is queued
there, and FAULT is raised. An acoustic channel's fault count rises by one, and the guard decides the write by its holds and the
frozen flag; a pressure write is absorbed exactly when the ring is frozen, and its fault names the pressure ring (R8, R9, R12,
R13, R78, R80, R132). -/
def Obligations.UnplacedWriteFaults : Prop :=
  ∀ (w : BlockWrite) (s : State) (n : Nat) (kind : FaultKind) (expected : Option Nat), s.Ready .acquisition →
    (∀ r ∈ s.core.writer.queue, r.isFault = false) →
    (∀ c, s.place w.addr.toNat = .acoustic c n →
      Unplaced (s.core.tracker c).state (s.core.tracker c).expected (s.core.ringSize c)
        (s.core.tracker c).count (2 ^ 35 - 1) n w.mask kind expected →
      ∃ t absorbed, exec (.acousticRingWrite w) s = .next t ∧ s.AcquisitionTaken t w absorbed ∧
        (absorbed = true ↔ s.core.Protected c n) ∧
        t.core.tracker c =
          { s.core.tracker c with
            faults := min ((s.core.tracker c).faults + 1) 65535
            absorbed := if absorbed then min ((s.core.tracker c).absorbed + 1) 65535 else (s.core.tracker c).absorbed } ∧
        (∀ j, j ≠ c → t.core.tracker j = s.core.tracker j) ∧
        t.core.streams.lead = s.core.streams.lead ∧ t.core.streams.horizon = s.core.streams.horizon ∧
        t.core.writer = { s.core.writer with
          queue := s.core.writer.queue ++ [s.core.faultRecord
            { kind := kind, place := .acoustic c, index := some n, expected := expected, distance := none,
              time := some (32 * (s.core.tracker c).count), lead := none, addr := none }] } ∧
        t.core.unit = s.core.unit.raised 64 ∧
        t.core.lastForwarded c = (if absorbed then s.core.lastForwarded c else some n) ∧
        t.core.hits = s.core.hits ∧ t.core.group = s.core.group ∧ t.core.monitor = s.core.monitor ∧
        t.core.check = s.core.check ∧ t.core.guard.freeze = s.core.guard.freeze) ∧
    (s.place w.addr.toNat = .pressure n →
      Unplaced s.core.streams.pressure.state s.core.streams.pressure.expected s.core.pressureEntry.size
        s.core.streams.pressure.count (2 ^ 32 - 1) n w.mask kind expected →
      ∃ t, exec (.pressureRingWrite w) s = .next t ∧ s.AcquisitionTaken t w s.core.streams.pressure.frozen ∧
        t.core =
          { if s.core.streams.pressure.frozen then s.core else s.core.pressureForwardedAt n with
            writer := { s.core.writer with
              queue := s.core.writer.queue ++ [s.core.faultRecord
                { kind := kind, place := .pressure, index := some n, expected := expected, distance := none,
                  time := some s.core.streams.pressure.count, lead := none, addr := none }] }
            unit := s.core.unit.raised 64 })

/-- A fault raised with no FAULT record queued forms one with its fields, the horizon and nothing further, appended to the
queue. With one queued it is merged into it: further count, kind and channel sets and pressure mark; the queue's other
records and their order stay. Both raise FAULT (R132). -/
def Obligations.FaultMerges : Prop :=
  ∀ (k : Core) (i : FaultInfo), (k.raiseFault i).unit.pending = k.unit.pending ||| 64 ∧
    ((∀ x ∈ k.writer.queue, x.isFault = false) →
      (k.raiseFault i).writer = { k.writer with
        queue := k.writer.queue ++
          [.fault { first := i, horizon := k.streams.horizon, furtherCount := 0, furtherKinds := 0, furtherChans := 0,
                    pressureMark := false }] }) ∧
    ∀ (before after : List Record) (r : FaultRecord), k.writer.queue = before ++ .fault r :: after →
      (∀ x ∈ before ++ after, x.isFault = false) →
      ∃ r', (k.raiseFault i).writer = { k.writer with queue := before ++ .fault r' :: after } ∧
        r'.first = r.first ∧ r'.horizon = r.horizon ∧ r'.furtherCount = min (r.furtherCount + 1) 65535 ∧
        (∀ b, r'.furtherKinds.getLsbD b = (r.furtherKinds.getLsbD b || decide (b + 1 = i.kind.code))) ∧
        (∀ c : Chan, r'.furtherChans.getLsbD c.val = (r.furtherChans.getLsbD c.val || decide (i.place = .acoustic c))) ∧
        r'.pressureMark = (r.pressureMark || decide (i.place = .pressure))

/-- A full write placed in an acoustic stream, as its origin, in order or after a skip: the tracker's origin, expected index
and count, a SKIP fault for a gap, the guard's decision and the last forwarded index. A protected index is absorbed; with
no check running and the ring not COUNTING, an unprotected one is forwarded. No other tracker moves, and the settings and
the record ring's indices stay (R5, R6, R7, R11, R78, R101). -/
def Obligations.PlacedWriteAdvances : Prop :=
  ∀ (w : BlockWrite) (s : State) (c : Chan) (n gap : Nat), s.Ready .acquisition →
    s.place w.addr.toNat = .acoustic c n → w.mask = BitVec.allOnes 64 → s.core.PlacedAt c n gap →
    ∃ t absorbed, exec (.acousticRingWrite w) s = .next t ∧ s.AcquisitionTaken t w absorbed ∧
      (s.core.Protected c n → absorbed = true) ∧
      (s.core.check.state = .idle → (s.core.freezeOf c).state ≠ .counting → absorbed = true → s.core.Protected c n) ∧
      (t.core.tracker c).state = .tracking ∧ (t.core.tracker c).count = (s.core.tracker c).count + gap + 1 ∧
      (t.core.tracker c).expected = (n + 1) % s.core.ringSize c ∧
      (t.core.tracker c).origin =
        (if (s.core.tracker c).state = .waiting then some n else (s.core.tracker c).origin) ∧
      (0 < gap → (s.core.tracker c).faults < 65535 → (s.core.tracker c).faults < (t.core.tracker c).faults) ∧
      (0 < gap → t.core.unit.pending &&& 64 = 64) ∧
      t.core.lastForwarded c = (if absorbed then s.core.lastForwarded c else some n) ∧
      (∀ j, j ≠ c →
        (t.core.tracker j).state = (s.core.tracker j).state ∧ (t.core.tracker j).origin = (s.core.tracker j).origin ∧
        (t.core.tracker j).expected = (s.core.tracker j).expected ∧ (t.core.tracker j).count = (s.core.tracker j).count ∧
        t.core.lastForwarded j = s.core.lastForwarded j) ∧
      t.core.streams.pressure.count = s.core.streams.pressure.count ∧
      t.core.unit.settings = s.core.unit.settings ∧ t.core.writer.produce = s.core.writer.produce ∧
      t.core.writer.drain = s.core.writer.drain ∧ t.core.writer.occupancy = s.core.writer.occupancy

/-- After a placed write: the lead time is the largest stream time of an enabled channel; an enabled channel that trails it by
more than 32 times the lag limit is stalled, and a stalled one within 32 times half of it (truncated) is stalled no more; the
horizon is the larger of its old value and the smallest stream time of a participating channel, and never falls (R15, R16,
R17, R18). -/
def Obligations.StreamTimesFollow : Prop :=
  ∀ (w : BlockWrite) (s t : State) (c : Chan) (n gap : Nat), s.Ready .acquisition →
    s.place w.addr.toNat = .acoustic c n → w.mask = BitVec.allOnes 64 → s.core.PlacedAt c n gap →
    exec (.acousticRingWrite w) s = .next t →
    (∀ j, s.core.enabled j = true → 32 * (t.core.tracker j).count ≤ t.core.streams.lead) ∧
    (t.core.streams.lead = 0 ∨ ∃ j, s.core.enabled j = true ∧ t.core.streams.lead = 32 * (t.core.tracker j).count) ∧
    (∀ j, s.core.enabled j = true →
      let behind := t.core.streams.lead - 32 * (t.core.tracker j).count
      (t.core.tracker j).stalled =
        (if (s.core.tracker j).stalled then decide (32 * (s.core.global.lagLimit / 2) < behind)
         else decide (32 * s.core.global.lagLimit < behind))) ∧
    s.core.streams.horizon ≤ t.core.streams.horizon ∧
    ((∀ j, t.core.participates j = false) → t.core.streams.horizon = s.core.streams.horizon) ∧
    (∀ m, (∃ j, t.core.participates j = true ∧ m = 32 * (t.core.tracker j).count) →
      (∀ j, t.core.participates j = true → m ≤ 32 * (t.core.tracker j).count) →
      t.core.streams.horizon = max s.core.streams.horizon m)

/-- FREEZING_WRITE: a placed write that starts at or after F, into a COUNTING ring. The ring is FROZEN_AT_WRITE at the last
forwarded index before the write, its frozen flag is set, and the write is absorbed. When no other ring was COUNTING the
run state is FROZEN, the FREEZE record is handed over and FROZEN is raised (R79, R102, R105). -/
def Obligations.FreezingWriteFreezes : Prop :=
  ∀ (w : BlockWrite) (s : State) (c : Chan) (n gap : Nat) (p : PostTrigger), s.Ready .acquisition →
    s.place w.addr.toNat = .acoustic c n → w.mask = BitVec.allOnes 64 → s.core.PlacedAt c n gap →
    s.core.check.state = .idle → s.core.monitor.post = some p → (s.core.freezeOf c).state = .counting →
    p.freezeTime ≤ 32 * ((s.core.tracker c).count + gap) →
    ∃ t, exec (.freezingWrite w) s = .next t ∧ s.AcquisitionTaken t w true ∧
      t.core.freezeOf c = { state := .atWrite, point := s.core.lastForwarded c } ∧
      (t.core.tracker c).frozen = true ∧ t.core.lastForwarded c = s.core.lastForwarded c ∧
      (t.core.tracker c).count = (s.core.tracker c).count + gap + 1 ∧
      ((∀ j, j ≠ c → (s.core.freezeOf j).state ≠ .counting) →
        t.core.unit.run = .frozen ∧ t.core.writer.unplacedFreeze = true ∧ t.core.unit.pending &&& 16 = 16 ∧
        (s.core.guard.pFreeze.state = .counting →
          t.core.guard.pFreeze = { state := .withAcoustic, point := s.core.guard.pLastFwd } ∧
          t.core.streams.pressure.frozen = true))

/-- A full write placed in the pressure stream: position, the mean entered in the FIFO of 16, P_max; the write is absorbed
while the ring is frozen, and else, the ring not COUNTING, forwarded; that this holds also of the write whose own trigger
freezes every ring at once is the model's reading (log 32). The below-peak tolerance in force governs the new mean (R111).
No acoustic position, no lead time and no horizon moves (R12, R80, R91, R92, R101). -/
def Obligations.PressureWriteAnalysed : Prop :=
  ∀ (w : BlockWrite) (s : State) (n gap : Nat), s.Ready .acquisition → s.place w.addr.toNat = .pressure n →
    w.mask = BitVec.allOnes 64 → s.core.PressurePlacedAt n gap →
    ∃ t absorbed, exec (.pressureRingWrite w) s = .next t ∧ s.AcquisitionTaken t w absorbed ∧
      (s.core.streams.pressure.frozen = true → absorbed = true) ∧
      (s.core.guard.pFreeze.state ≠ .counting → absorbed = true → s.core.streams.pressure.frozen = true) ∧
      t.core.guard.pLastFwd = (if absorbed then s.core.guard.pLastFwd else some n) ∧
      t.core.streams.pressure.state = .tracking ∧
      t.core.streams.pressure.count = s.core.streams.pressure.count + gap + 1 ∧
      t.core.streams.pressure.expected = (n + 1) % s.core.pressureEntry.size ∧
      t.core.streams.pressure.origin =
        (if s.core.streams.pressure.state = .waiting then some n else s.core.streams.pressure.origin) ∧
      (let mean := ((List.range 32).map fun i => (sampleAt w.data i).toNat).sum / 32
       t.core.monitor.fifo.getLast? = some mean ∧ t.core.monitor.pmax = max s.core.monitor.pmax mean ∧
       t.core.monitor.peakTol = s.core.global.belowPeakTol ∧
       (s.core.monitor.fifo.length < 16 → t.core.monitor.fifo = s.core.monitor.fifo ++ [mean]) ∧
       (16 ≤ s.core.monitor.fifo.length → t.core.monitor.fifo = s.core.monitor.fifo.drop 1 ++ [mean])) ∧
      (0 < gap → t.core.unit.pending &&& 64 = 64) ∧
      (∀ c, (t.core.tracker c).count = (s.core.tracker c).count ∧
        (t.core.tracker c).expected = (s.core.tracker c).expected ∧ t.core.lastForwarded c = s.core.lastForwarded c) ∧
      t.core.streams.lead = s.core.streams.lead ∧ t.core.streams.horizon = s.core.streams.horizon ∧
      t.core.unit.settings = s.core.unit.settings

/-- A pressure trigger: an ARMED monitor in LISTENING with no check running, whose new mean stands the burst drop (not 0) or
more below P_max, is SPENT and takes the trigger with source PRESSURE at the horizon; without such a drop, or not ARMED,
the arming state follows the arm level alone (R96, R97, R99, R100). -/
def Obligations.PressureTriggersOnDrop : Prop :=
  ∀ (w : BlockWrite) (s : State) (n gap : Nat), s.Ready .acquisition → s.place w.addr.toNat = .pressure n →
    w.mask = BitVec.allOnes 64 → s.core.PressurePlacedAt n gap → s.core.unit.run = .listening →
    s.core.check.state = .idle →
    let mean := ((List.range 32).map fun i => (sampleAt w.data i).toNat).sum / 32
    let pmax := max s.core.monitor.pmax mean
    let armed := s.core.monitor.arming = .armed ∨ (s.core.monitor.arming = .unarmed ∧ s.core.global.armLevel ≤ pmax)
    let drops := s.core.global.burstDrop ≠ 0 ∧ s.core.global.burstDrop ≤ pmax - mean
    ∃ t, exec (.pressureRingWrite w) s = .next t ∧
      (armed → drops → t.core.monitor.arming = .spent ∧ t.core.monitor.tt = s.core.streams.horizon ∧
        (t.core.unit.run = .postTrigger ∨ t.core.unit.run = .frozen) ∧ t.core.writer.unplacedTrigger = true ∧
        t.core.monitor.post = some
          { source := .pressure, freezeTime := s.core.streams.horizon + 32 * s.core.global.postTrigger,
            tp := s.core.streams.pressure.count + gap + 1,
            freezeNumber := s.core.streams.pressure.count + gap + 1 + s.core.global.postTriggerP, extra := 0 }) ∧
      (armed → ¬drops → t.core.monitor.arming = .armed ∧ t.core.unit.run = .listening) ∧
      (¬armed → t.core.monitor.arming = s.core.monitor.arming ∧ t.core.unit.run = .listening)

/-- PRESSURE_FREEZE: a placed pressure write in POST_TRIGGER whose block number has reached the freeze number, the ring
COUNTING: FROZEN_AT_COUNT at the last forwarded index before the write, the frozen flag set, the write absorbed, and the
mean entered all the same (R80, R104). -/
def Obligations.PressureFreezesAtCount : Prop :=
  ∀ (w : BlockWrite) (s : State) (n gap : Nat) (p : PostTrigger), s.Ready .acquisition →
    s.place w.addr.toNat = .pressure n → w.mask = BitVec.allOnes 64 → s.core.PressurePlacedAt n gap →
    s.core.unit.run = .postTrigger → s.core.monitor.post = some p → s.core.guard.pFreeze.state = .counting →
    p.freezeNumber ≤ s.core.streams.pressure.count + gap →
    ∃ t, exec (.pressureFreeze w) s = .next t ∧ s.AcquisitionTaken t w true ∧
      t.core.guard.pFreeze = { state := .atCount, point := s.core.guard.pLastFwd } ∧
      t.core.streams.pressure.frozen = true ∧ t.core.guard.pLastFwd = s.core.guard.pLastFwd ∧
      t.core.streams.pressure.count = s.core.streams.pressure.count + gap + 1 ∧
      t.core.monitor.fifo.getLast? = some (((List.range 32).map fun i => (sampleAt w.data i).toNat).sum / 32) ∧
      t.core.unit.run = .postTrigger ∧ (∀ c, t.core.freezeOf c = s.core.freezeOf c)

/-! ### Other requests -/

/-- FORWARDED_WRITE and READ_REQUEST: a write of either port outside the regions, or of the host into the record ring or a page
block that carries no command, waits to be forwarded and changes nothing; an acquisition write into the record ring or the
control page waits too and raises a FOREIGN fault. A write from either port into the blocks that a running APPLY fetches sets
the disturbance mark, and no other write does. A read of 1 to 8 blocks waits with the classes of its blocks as the decoder
gives them and changes nothing (R160, R161, R163, R164, R178). -/
def Obligations.OtherRequestsWait : Prop :=
  ∀ (p : Port) (w : BlockWrite) (s : State), s.Ready p →
    (s.place w.addr.toNat = .plain → ∃ t, exec (.forwardedWrite p w) s = .next t ∧ t.core = s.core ∧
      (p = .acquisition → s.AcquisitionTaken t w false) ∧ (p = .host → s.HostWriteTaken t w false)) ∧
    (p = .host → (∃ n, s.place w.addr.toNat = .record n) →
      ∃ t, exec (.forwardedWrite p w) s = .next t ∧ t.core = s.core ∧ s.HostWriteTaken t w false) ∧
    (p = .host → ∀ b, s.place w.addr.toNat = .control b → 2 ≤ b →
      ∃ t, exec (.forwardedWrite p w) s = .next t ∧ s.HostWriteTaken t w false ∧
        (¬s.core.fetches b → t.core = s.core) ∧
        (s.core.fetches b → t.core = { s.core with unit := { s.core.unit with disturbed := true } })) ∧
    (p = .acquisition → ((∃ n, s.place w.addr.toNat = .record n) ∨ ∃ b, s.place w.addr.toNat = .control b) →
      ∃ t, exec (.forwardedWrite p w) s = .next t ∧ s.AcquisitionTaken t w false ∧
        t.core.streams = s.core.streams ∧ t.core.hits = s.core.hits ∧ t.core.group = s.core.group ∧
        t.core.guard = s.core.guard ∧ t.core.monitor = s.core.monitor ∧ t.core.check = s.core.check ∧
        t.core.unit = { s.core.unit.raised 64 with disturbed := t.core.unit.disturbed } ∧
        (t.core.unit.disturbed = true ↔
          s.core.unit.disturbed = true ∨ ∃ b, s.place w.addr.toNat = .control b ∧ s.core.fetches b) ∧
        ((∀ r ∈ s.core.writer.queue, r.isFault = false) →
          t.core.writer = { s.core.writer with
            queue := s.core.writer.queue ++ [s.core.faultRecord
              { kind := .foreign, place := .elsewhere, index := none, expected := none, distance := none, time := none,
                lead := none, addr := some w.addr }] })) ∧
    (∀ (addr : BlockAddr) (len : Fin 8),
      ∃ t, exec (.readRequest p addr len) s = .next t ∧ s.PinsKept t ∧ t.core = s.core ∧ t.issued = s.issued ∧
        (∀ q, q ≠ p → t.port q = s.port q) ∧
        t.port p = { s.port p with
          accepted := (s.port p).accepted ++
            [{ request := .read addr len, places := s.placesOf (.read addr len), startsFetch := false,
               cond := .waiting }] })

/-! ### Samples -/

/-- NORMAL_END: at the sample C after the last crossing, which is no crossing, the hit closes: its HIT record with reason
NORMAL, this closing time and the measured values is handed over, its hold is closed, and the detector enters GUARD for G
samples, or ARMED when G is 0 (R33, R34, R35, R39, R46, R76). That the row, taken by itself, carries a sample which the detector
takes whole is the model's own choice (log 9). -/
def Obligations.NormalEndCloses : Prop :=
  ∀ (e : SampleEvent) (s : State) (h : HitContext), (s.core.detector e.chan).state = .opened h →
    e.time = h.lastCrossing + h.closeWin →
    ¬(h.threshold ≤ magnitude e.sample ∧ (s.core.detector e.chan).prev < h.threshold) →
    let higher := h.settled = false ∧ h.peak < magnitude e.sample
    ∃ t r, exec (.normalEnd e) s = .next t ∧ s.LinkKept t ∧ s.core.HandedOver t.core (.hit r) ∧
      r.number = h.number ∧ r.chan = h.chan ∧ r.reason = .normal ∧ r.arrival = h.arrival ∧ r.closing = e.time ∧
      r.duration = h.lastCrossing - h.arrival ∧ r.counts = h.counts ∧ r.energy = recordedEnergy h.snapshot ∧
      (higher → r.peak = magnitude e.sample ∧ r.rise = e.time - h.arrival) ∧
      (¬higher → r.peak = h.peak ∧ r.rise = h.peakTime - h.arrival) ∧ r.hold = h.hold ∧
      r.range = s.core.closingRange h.hold ∧ s.core.HoldClosed t.core h.hold ∧ s.core.CloseKept t.core e.chan ∧
      (t.core.detector e.chan).prev = magnitude e.sample ∧
      (t.core.detector e.chan).noise = (s.core.detector e.chan).noise ∧
      (h.guardLen ≠ 0 → (t.core.detector e.chan).state = .guard (e.time + h.guardLen) ∧
        (t.core.detector e.chan).threshold = (s.core.detector e.chan).threshold) ∧
      (h.guardLen = 0 → (t.core.detector e.chan).state = .armed none ∧
        (t.core.detector e.chan).threshold =
          thresholdFor (s.core.settingsOf e.chan) (s.core.detector e.chan).noise)

/-- CUT: at the cut time A + 32 L the hit closes with reason CUT and the values it had before the sample, and the sample is
taken again in ARMED with the threshold computed: at or above it a continuation hit opens with this arrival and the next
hit number, below it the detector waits with the continuation end C after the cut (R32, R37, R38). That the row, taken by itself,
carries a sample which the detector takes whole is the model's own choice (log 9). -/
def Obligations.CutReopens : Prop :=
  ∀ (e : SampleEvent) (s : State) (h : HitContext), (s.core.detector e.chan).state = .opened h →
    e.time = h.arrival + 32 * h.maxLen →
    ¬(e.time = h.lastCrossing + h.closeWin ∧
      ¬(h.threshold ≤ magnitude e.sample ∧ (s.core.detector e.chan).prev < h.threshold)) →
    let threshold := thresholdFor (s.core.settingsOf e.chan) (s.core.detector e.chan).noise
    ∃ t r, exec (.cut e) s = .next t ∧ s.LinkKept t ∧
      r.number = h.number ∧ r.chan = h.chan ∧ r.reason = .cut ∧ r.arrival = h.arrival ∧ r.closing = e.time ∧
      r.duration = h.lastCrossing - h.arrival ∧ r.counts = h.counts ∧ r.peak = h.peak ∧
      r.energy = recordedEnergy h.snapshot ∧ r.hold = h.hold ∧ r.range = s.core.closingRange h.hold ∧
      (t.core.detector e.chan).prev = magnitude e.sample ∧ (t.core.detector e.chan).threshold = threshold ∧
      (∀ j, j ≠ e.chan → t.core.detector j = s.core.detector j) ∧ t.core.streams = s.core.streams ∧
      (magnitude e.sample < threshold →
        (t.core.detector e.chan).state = .armed (some (e.time + h.closeWin)) ∧ s.core.HandedOver t.core (.hit r) ∧
        s.core.HoldClosed t.core h.hold ∧ s.core.CloseKept t.core e.chan) ∧
      (threshold ≤ magnitude e.sample → t.core.hits.nextHit = s.core.hits.nextHit + 1 ∧
        (s.core.streams.horizon ≤ e.time → s.core.HandedOver t.core (.hit r)) ∧
        ∃ h', (t.core.detector e.chan).state = .opened h' ∧ h'.number = s.core.hits.nextHit ∧ h'.arrival = e.time ∧
          h'.flags.continuation = true ∧ h'.counts = 1 ∧ h'.peak = magnitude e.sample ∧ h'.openIndex = e.ringIndex)

/-- PEAK_SETTLED: P samples after its peak, at a sample that neither exceeds it nor ends nor cuts the hit, the peak settles;
nothing outside the detector changes (R32, R33, R34). That the row, taken by itself, carries a sample which the detector takes
whole, so that its crossing and energy are measured too, is the model's own choice (log 9). -/
def Obligations.PeakSettles : Prop :=
  ∀ (e : SampleEvent) (s : State) (h : HitContext), (s.core.detector e.chan).state = .opened h → h.settled = false →
    magnitude e.sample ≤ h.peak → e.time = h.peakTime + h.peakWin → e.time ≠ h.arrival + 32 * h.maxLen →
    e.time ≠ h.lastCrossing + h.closeWin →
    let crossing := h.threshold ≤ magnitude e.sample ∧ (s.core.detector e.chan).prev < h.threshold
    let energy := h.energy + e.sample.toInt.natAbs * e.sample.toInt.natAbs
    ∃ t, exec (.peakSettled e) s = .next t ∧ s.LinkKept t ∧
      t.core = s.core.withDetector e.chan
        { s.core.detector e.chan with
          prev := magnitude e.sample
          state := .opened { h with
            settled := true
            energy := energy
            counts := if crossing then min (h.counts + 1) 65535 else h.counts
            lastCrossing := if crossing then e.time else h.lastCrossing
            snapshot := if crossing then energy else h.snapshot } }

/-- GUARD_END: at the guard end the detector enters ARMED without testing the sample; at a later sample it has entered ARMED
before and tests it. CONTINUATION_END: at a later sample the continuation end is removed and the sample is tested as in ARMED
without it. In both only a crossing opens a hit, which is no continuation (R25, R27, R28, R36, R38). That the rows, taken by
themselves, carry a sample which the detector takes whole, a later one included, is the model's own choice (log 9). R36 gives
two moments for ARMED where the guard end is a block's last sample. That ARMED is entered at the guard end there too is the
model's own choice (log 36). -/
def Obligations.GuardAndContinuationEnd : Prop :=
  ∀ (e : SampleEvent) (s : State) (i : Instr) (opens : Prop) (threshold : Nat),
    let d := s.core.detector e.chan
    ((i = .guardEnd e ∧ threshold = thresholdFor (s.core.settingsOf e.chan) d.noise ∧
        ∃ g, d.state = .guard g ∧ g ≤ e.time ∧
          (opens ↔ g < e.time ∧ threshold ≤ magnitude e.sample ∧ d.prev < threshold)) ∨
      (i = .continuationEnd e ∧ threshold = d.threshold ∧
        ∃ g, d.state = .armed (some g) ∧ g < e.time ∧
          (opens ↔ threshold ≤ magnitude e.sample ∧ d.prev < threshold))) →
    ∃ t, exec i s = .next t ∧ s.LinkKept t ∧
      (¬opens → t.core = s.core.withDetector e.chan
        { state := .armed none, threshold := threshold, noise := d.noise, prev := magnitude e.sample }) ∧
      (opens → t.core.hits.nextHit = s.core.hits.nextHit + 1 ∧ (t.core.detector e.chan).threshold = threshold ∧
        (t.core.detector e.chan).prev = magnitude e.sample ∧
        ∃ h', (t.core.detector e.chan).state = .opened h' ∧ h'.number = s.core.hits.nextHit ∧ h'.arrival = e.time ∧
          h'.flags.continuation = false)

/-- FIRE_TIMEOUT: in FIRING, at a sample of the source at or after the fire time + 4096, the check ends NO_SOURCE: its CHECK
record is queued with the path table untouched, CHECK is raised, every detector in CHECK enters ARMED, and a queued trigger
is taken (R43, R107, R120, R124, R125). That the row, taken by itself, carries a sample of the source which its detector takes is
the model's own choice (log 9), and that the context hears it before the check ends is log 26. -/
def Obligations.FireTimeoutEnds : Prop :=
  ∀ (e : SampleEvent) (s : State) (ctx : CheckContext), s.core.check.state = .firing → e.chan = s.core.check.source →
    (s.core.detector e.chan).state = .check ctx → s.core.check.fireTime + 4096 ≤ e.time →
    ∃ t, exec (.fireTimeout e) s = .next t ∧ s.LinkKept t ∧ t.core.check.state = .idle ∧ t.core.check.queued = none ∧
      t.core.group = s.core.group ∧ t.core.writer.unplacedCheck = true ∧ t.core.unit.pending &&& 32 = 32 ∧
      (∃ r rest, t.core.writer.queue = s.core.writer.queue ++ .check r :: rest ∧ r.reason = .noSource ∧ r.cause = none ∧
        r.source = s.core.check.source ∧ r.pathUpdated = false ∧ r.triggerQueued = s.core.check.queued.isSome ∧
        r.fireTime = s.core.check.fireTime ∧ (look r.entries s.core.check.source).result = .source ∧
        ∀ j, (look r.entries j).result ≠ .valid ∧ (look r.entries j).result ≠ .noPulse) ∧
      (∀ j, ((s.core.detector j).inCheck = true →
          (t.core.detector j).state = .armed none ∧
          (t.core.detector j).threshold = thresholdFor (s.core.settingsOf j) (s.core.detector j).noise) ∧
        ((s.core.detector j).inCheck = false → (t.core.detector j).state = (s.core.detector j).state ∨
          ∃ h, (s.core.detector j).state = .opened h)) ∧
      (s.core.check.queued = none → t.core.unit.run = s.core.unit.run ∧ t.core.monitor = s.core.monitor ∧
        t.core.streams = s.core.streams) ∧
      (∀ q, s.core.check.queued = some q → t.core.monitor.tt = s.core.streams.horizon ∧
        ∃ p, t.core.monitor.post = some p ∧ p.source = q.source ∧ p.extra = q.extra ∧
          (t.core.unit.run = .postTrigger ∨ t.core.unit.run = .frozen))

/-! ### The memory arbiter -/

/-- MEMORY_GRANT. With no round under way and either no internal request presented or the wait count below the tenure, the
oldest waiting entry of a port is issued: of the one port that has one, or of the port not granted last; the wait count rises
by one beside an internal request and is 0 without. At the tenure an internal round begins, and a round under way goes on
before any upstream grant: its first requester is granted, the others stay to be granted, and with the last of them the wait
count becomes 0; only the write of an abandoned placement is issued to be ignored (R149, R169, R170). -/
def Obligations.ArbiterChooses : Prop :=
  ∀ s : State, s.present = s → s.linkReset = false → s.issued.length < 16 →
    (∀ (p : Port) (e : Accepted) (before after : List Accepted), s.arb.round = [] →
      (s.arb.candidates = [] ∨ s.arb.waitCount < s.core.global.tenure) →
      (s.port p).accepted = before ++ e :: after → e.cond = .waiting → (∀ x ∈ before, x.cond ≠ .waiting) →
      ((∀ q, q ≠ p → ∀ x ∈ (s.port q).accepted, x.cond ≠ .waiting) ∨ s.arb.lastGrant ≠ p) →
      ∃ t, exec .memoryGrant s = .next t ∧ t.core = s.core ∧
        t.port p = { s.port p with accepted := before ++ { e with cond := .issued } :: after } ∧
        (∀ q, q ≠ p → t.port q = s.port q) ∧
        t.issued = s.issued ++ [{ owner := .port p, request := e.request, discarded := false }] ∧
        t.arb.lastGrant = p ∧ t.arb.answer = s.arb.answer ∧ t.arb.engine = s.arb.engine ∧ t.arb.record = s.arb.record ∧
        t.arb.abandoned = s.arb.abandoned ∧
        t.arb.waitCount = (if s.arb.candidates = [] then 0 else s.arb.waitCount + 1) ∧ t.arb.round = [] ∧
        t.strap = s.strap ∧ t.timeRef = s.timeRef ∧ t.pending = s.pending) ∧
    (∀ (r : Requester) (rest : List Requester),
      ((s.arb.round = r :: rest ∧ (r :: rest).Nodup) ∨
        (s.arb.round = [] ∧ s.arb.candidates = r :: rest ∧ s.core.global.tenure ≤ s.arb.waitCount ∧
          ∃ p, ∃ e ∈ (s.port p).accepted, e.cond = .waiting)) →
      ∃ t i, exec .memoryGrant s = .next t ∧ t.issued = s.issued ++ [i] ∧
        i.discarded = (r == .record && s.arb.abandoned.isSome) ∧ (∀ p, i.owner ≠ .port p) ∧ t.acq = s.acq ∧ t.host = s.host ∧ t.arb.lastGrant = s.arb.lastGrant ∧
        t.arb.round = rest ∧ (rest = [] → t.arb.waitCount = 0) ∧ (rest ≠ [] → t.arb.waitCount = s.arb.waitCount))

/-- What an internal grant issues: block 2 with the oldest answer due, or the latest, and the refusal word, its refusal mark
then clear; block 3 with the status as it stands, its dirty mark then clear; the next read of a fetch; the next block of a
snapshot as it stands; the next slot of the placement, or before it the write that stands presented of a placement that was
abandoned, its completion to be ignored (R138, R149, R168, R171, R178, R182, R184). -/
def Obligations.InternalGrantsIssue : Prop :=
  ∀ (s : State), s.present = s → s.linkReset = false → s.issued.length < 16 →
    ∀ (r : Requester), s.arb.presents r = true →
    ((∃ rest, s.arb.round = r :: rest) ∨
      (s.arb.round = [] ∧ (∃ rest, s.arb.candidates = r :: rest) ∧
        ∀ p, ∀ e ∈ (s.port p).accepted, e.cond ≠ .waiting)) →
    ∃ t i, exec .memoryGrant s = .next t ∧ t.issued = s.issued ++ [i] ∧
      i.discarded = (r == .record && s.arb.abandoned.isSome) ∧
      (r = .answer → s.arb.answer = some .block2 →
        i.owner = .answer (.answerBlock !s.core.unit.due.isEmpty) ∧
        i.request = .write { addr := s.pageAddr 2, mask := BitVec.allOnes 64,
                             data := answerBlock (s.core.unit.due.head?.getD s.core.unit.latest) s.core.unit.refusal } ∧
        t.core = { s.core with unit := { s.core.unit with refusalMark := false, awaiting := true } }) ∧
      (r = .answer → s.arb.answer = some .block3 →
        i.owner = .answer .statusBlock ∧
        i.request = .write { addr := s.pageAddr 3, mask := BitVec.allOnes 64, data := s.core.statusBlock } ∧
        t.core = { s.core with unit := { s.core.unit with dirty := false, awaiting := true } }) ∧
      (r = .engine → ∀ tag paths f, s.core.unit.running = some (.apply tag paths f) →
        ∃ b len, (fetchReads paths)[f.granted]? = some (b, len) ∧ i.owner = .fetch ∧
          i.request = .read (s.pageAddr b) len ∧
          t.core = { s.core with unit := { s.core.unit with
            running := some (.apply tag paths { f with granted := f.granted + 1 }) } }) ∧
      (r = .engine → ∀ tag target granted completed,
        s.core.unit.running = some (.snapshot tag target granted completed) →
          i.owner = .snapshot ∧
          i.request = .write { addr := s.pageAddr (target.first + granted), mask := BitVec.allOnes 64,
                               data := s.core.snapshotBlock target granted } ∧
          t.core = { s.core with unit := { s.core.unit with
            running := some (.snapshot tag target (granted + 1) completed) } }) ∧
      (r = .record → ∀ w, s.arb.abandoned = some w →
          i.owner = .record ∧ i.request = .write w ∧ t.core = s.core ∧ t.arb.abandoned = none) ∧
      (r = .record → s.arb.abandoned = none → ∀ p, s.core.writer.placement = some p →
          i.owner = .record ∧
          i.request = .write { addr := s.core.slotAddr (p.write p.granted).1, mask := BitVec.allOnes 64,
                               data := (p.write p.granted).2 } ∧
          t.core = { s.core with writer := { s.core.writer with
            placement := some { p with granted := p.granted + 1 } } })

/-- The writes of a placement cover the PAD slots from the produce index up and then the slots of the record, whose slot 0
comes last and only after every other write has completed (R137, R138). -/
def Obligations.SlotZeroComesLast : Prop :=
  ∀ (k : Core) (r : Record) (rest : List Record), k.writer.mode ≠ .shedding → k.writer.produce < k.slots →
    4 ≤ k.slots →
    ∃ p, (k.beginPlacement r rest).writer.placement = some p ∧ p.record = r ∧ p.number = k.writer.nextNumber ∧
      p.writes = k.need r ∧
      (∀ i, i < p.writes → (p.write i).1 < k.slots) ∧
      (∀ i, i < p.pad → (p.write i).1 = k.writer.produce + i) ∧
      (p.write (p.writes - 1)).1 = (k.writer.produce + p.pad) % k.slots ∧
      (∀ i, p.pad ≤ i → i + 1 < p.writes → (p.write i).1 = (k.writer.produce + i + 1) % k.slots) ∧
      (∀ q : Placement, q.record = p.record → q.pad = p.pad → q.granted + 1 = q.writes → q.mayPresent = true →
        q.completed = q.granted)

/-! ### Completions -/

/-- UPSTREAM_COMPLETION: the port's oldest issued entry becomes complete with what was received, and the oldest entries that
are complete are returned in acceptance order; a DONE write of the acquisition port changes nothing behind the link, a
FAILED one into an acoustic ring counts a DOWNSTREAM fault for its channel (R165, R166, R167). -/
def Obligations.CompletionReturnsInOrder : Prop :=
  ∀ (r : Completion) (s : State) (p : Port) (i : Issued) (rest : List Issued) (e : Accepted)
    (before after : List Accepted), s.issued = i :: rest → i.owner = .port p → i.discarded = false →
    (s.port p).accepted = before ++ e :: after → e.cond = .issued → (∀ x ∈ before, x.cond ≠ .issued) →
    ∃ t, exec (.upstreamCompletion r) s = .next t ∧ s.PinsKept t ∧ t.issued = rest ∧ (∀ q, q ≠ p → t.port q = s.port q) ∧
      t.port p = (s.port p).drained (before ++ { e with cond := .complete (returnedFor e.request r) } :: after) ∧
      (p = .acquisition → e.startsFetch = false → (∃ lines, r = .done lines) → t.core = s.core) ∧
      (p = .acquisition → e.startsFetch = false → r = .failed → ∀ w c n, e.request = .write w →
        e.places = [.acoustic c n] →
        (t.core.tracker c).faults = min ((s.core.tracker c).faults + 1) 65535 ∧
        (t.core.tracker c).count = (s.core.tracker c).count ∧
        (t.core.tracker c).expected = (s.core.tracker c).expected ∧
        t.core.guard = s.core.guard ∧ t.core.hits = s.core.hits ∧ t.core.group = s.core.group ∧
        t.core.unit.pending = s.core.unit.pending ||| 64 ∧
        ((∀ x ∈ s.core.writer.queue, x.isFault = false) →
          t.core.writer.queue = s.core.writer.queue ++ [s.core.faultRecord
            { kind := .downstream, place := .acoustic c, index := none, expected := none, distance := none,
              time := some (32 * (s.core.tracker c).count), lead := none, addr := some w.addr }]))

/-- A host read returned DONE, alone at its port: every HELD hold with release mode ON_READ whose last ring index the read
covers becomes FREE and no other; the record ring is drained from the drain index on as far as the read covers it and slots
are occupied; a FAILED one does neither (R84, R141, R165). -/
def Obligations.HostReadReleasesAndDrains : Prop :=
  ∀ (lines : Vector Block 8) (s : State) (i : Issued) (rest : List Issued) (e : Accepted) (addr : BlockAddr) (len : Fin 8),
    s.issued = i :: rest → i.owner = .port .host → i.discarded = false → s.host.accepted = [e] → e.cond = .issued →
    e.request = .read addr len → e.startsFetch = false → s.core.writer.drain < s.core.slots →
    s.core.writer.occupancy < s.core.slots →
    (∃ t, exec (.upstreamCompletion .failed) s = .next t ∧ t.core = s.core) ∧
    ∃ t, exec (.upstreamCompletion (.done lines)) s = .next t ∧
      (∀ h, t.core.hold h =
        (s.core.hold h).bind fun x =>
          if x.state = .held ∧ x.release = .onRead ∧ Place.acoustic x.chan (x.last (s.core.ringSize x.chan)) ∈ e.places then
            none
          else some x) ∧
      (∃ k, k ≤ s.core.writer.occupancy ∧ t.core.writer.occupancy = s.core.writer.occupancy - k ∧
        t.core.writer.drain = (s.core.writer.drain + k) % s.core.slots ∧
        (∀ j, j < k → Place.record ((s.core.writer.drain + j) % s.core.slots) ∈ e.places) ∧
        (k < s.core.writer.occupancy → Place.record ((s.core.writer.drain + k) % s.core.slots) ∉ e.places)) ∧
      t.core.writer.produce = s.core.writer.produce ∧
      (s.core.writer.mode = .shedding → t.core.writer.occupancy < s.core.writer.occupancy →
        t.core.writer.occupancy ≤ s.core.global.resumeMark → t.core.writer.mode = .placing) ∧
      t.core.streams = s.core.streams ∧ t.core.group = s.core.group ∧ t.core.check = s.core.check

/-- RECORD_WRITE_COMPLETION, DONE: before the last write of a placement it is counted; at the last the record is published:
produce index and occupancy move by the placement's slots, the record number is consumed, its unplaced mark is cleared,
RECORD is raised at or above the attention mark, and a stall ends (R139, R145). -/
def Obligations.RecordPublished : Prop :=
  ∀ (lines : Vector Block 8) (s : State) (i : Issued) (rest : List Issued) (p : Placement), s.issued = i :: rest →
    i.owner = .record → i.discarded = false → s.core.writer.halted = false → s.core.writer.placement = some p →
    ∃ t, exec (.recordWriteCompletion (.done lines)) s = .next t ∧ s.InternalDone t rest ∧
      (p.completed + 1 ≠ p.writes →
        t.core = { s.core with writer := { s.core.writer with
          placement := some { p with completed := p.completed + 1 } } }) ∧
      (p.completed + 1 = p.writes →
        t.core.writer.placement = none ∧ t.core.writer.queue = s.core.writer.queue ∧
        t.core.writer.produce = (s.core.writer.produce + p.pad + p.record.span) % s.core.slots ∧
        t.core.writer.occupancy = s.core.writer.occupancy + p.pad + p.record.span ∧
        t.core.writer.nextNumber = s.core.writer.nextNumber + 1 ∧
        t.core.writer.unplacedTrigger = (s.core.writer.unplacedTrigger && !(p.record matches .trigger _)) ∧
        t.core.writer.unplacedFreeze = (s.core.writer.unplacedFreeze && !(p.record matches .freeze _)) ∧
        t.core.writer.unplacedCheck = (s.core.writer.unplacedCheck && !(p.record matches .check _)) ∧
        (s.core.global.attentionMark ≤ t.core.writer.occupancy →
          t.core.unit.pending = s.core.unit.pending ||| 1) ∧
        (t.core.writer.occupancy < s.core.global.attentionMark → t.core.unit.pending = s.core.unit.pending) ∧
        (s.core.writer.mode = .shedding → t.core.writer.mode = .shedding) ∧
        (s.core.writer.mode ≠ .shedding → t.core.writer.mode = .placing) ∧
        t.core.writer.loss = s.core.writer.loss ∧ t.core.streams = s.core.streams)

/-- ANSWER_WRITE_COMPLETION, DONE: a block 2 write that carried an answer makes it the latest answer, takes it from the
answers due and raises DONE; every other write of the writer only leaves it free to present again (R174, R184). -/
def Obligations.AnswerIsWritten : Prop :=
  ∀ (lines : Vector Block 8) (s : State) (i : Issued) (rest : List Issued) (w : AnswerWrite), s.issued = i :: rest →
    i.owner = .answer w → i.discarded = false → s.core.writer.halted = false →
    ∃ t, exec (.answerWriteCompletion (.done lines)) s = .next t ∧ s.InternalDone t rest ∧
      (w ≠ .answerBlock true → t.core = { s.core with unit := { s.core.unit with awaiting := false } }) ∧
      (w = .answerBlock true → ∀ a due, s.core.unit.due = a :: due →
        t.core = { s.core with unit := { s.core.unit with
          awaiting := false, due := due, latest := a, pending := s.core.unit.pending ||| 2
          dirty := s.core.unit.dirty || due.isEmpty || (s.core.unit.pending ||| 2) != s.core.unit.pending } })

/-- A FAILED completion of a write of the record writer, the answer and status writer or a snapshot sets the halted flag, ends
a stall and marks the status dirty; record ring indices, queue, answers due and the running command stay (R148). -/
def Obligations.InternalFailureHalts : Prop :=
  ∀ (s : State) (i : Issued) (rest : List Issued) (c : Instr), s.issued = i :: rest → i.discarded = false →
    s.core.writer.halted = false →
    ((c = .recordWriteCompletion .failed ∧ i.owner = .record) ∨
      (c = .snapshotWriteCompletion .failed ∧ i.owner = .snapshot) ∨
      (c = .answerWriteCompletion .failed ∧ ∃ w, i.owner = .answer w)) →
    ∃ t, exec c s = .next t ∧ s.InternalDone t rest ∧ t.haltLine = true ∧ t.core.unit.dirty = true ∧
      (s.core.writer.mode = .shedding → t.core.writer.mode = .shedding) ∧
      (s.core.writer.mode ≠ .shedding → t.core.writer.mode = .placing) ∧
      t.core.writer.queue = s.core.writer.queue ∧ t.core.writer.placement = s.core.writer.placement ∧
      t.core.writer.produce = s.core.writer.produce ∧ t.core.writer.occupancy = s.core.writer.occupancy ∧
      t.core.unit.due = s.core.unit.due ∧ t.core.unit.running = s.core.unit.running ∧
      t.core.unit.pending = s.core.unit.pending ∧ t.core.streams = s.core.streams ∧ t.core.hits = s.core.hits ∧
      t.core.group = s.core.group ∧ t.core.guard = s.core.guard ∧ t.core.monitor = s.core.monitor ∧
      t.core.check = s.core.check

/-- A running APPLY or SNAPSHOT goes on: FETCH_READ_COMPLETION before the fetch is over counts the read and keeps its blocks in
order, or marks the fetch failed; SNAPSHOT_WRITE_COMPLETION, DONE, is counted, and after the last write of the snapshot the
command ends and is answered DONE. Nothing else behind the link changes (R178, R182). -/
def Obligations.LongCommandsGoOn : Prop :=
  (∀ (r : Completion) (s : State) (i : Issued) (rest : List Issued) (tag : Sys2Proof.Num) (paths : Bool) (f : Fetch)
    (addr : BlockAddr) (len : Fin 8), s.issued = i :: rest → i.owner = .fetch → i.discarded = false →
    i.request = .read addr len → s.core.unit.running = some (.apply tag paths f) →
    ¬(f.completed + 1 = f.granted ∧
      (f.failed = true ∨ r = .failed ∨ f.granted = if paths then 7 else 3)) →
    ∃ t f', exec (.fetchReadCompletion r) s = .next t ∧ s.InternalDone t rest ∧
      t.core = { s.core with unit := { s.core.unit with running := some (.apply tag paths f') } } ∧
      f'.started = f.started ∧ f'.granted = f.granted ∧ f'.completed = f.completed + 1 ∧
      (r = .failed → f'.failed = true ∧ f'.data = f.data) ∧
      (∀ lines, r = .done lines → f'.failed = f.failed ∧ f'.data = f.data ++ lines.toList.take (len.val + 1))) ∧
  (∀ (lines : Vector Block 8) (s : State) (i : Issued) (rest : List Issued) (tag : Sys2Proof.Num)
    (target : SnapshotTarget) (granted completed : Nat), s.issued = i :: rest → i.owner = .snapshot →
    i.discarded = false → s.core.writer.halted = false →
    s.core.unit.running = some (.snapshot tag target granted completed) →
    let last := completed + 1 = (match target with | .channels => 8 | .paths => 32)
    ∃ t, exec (.snapshotWriteCompletion (.done lines)) s = .next t ∧ s.InternalDone t rest ∧
      (¬last → t.core = { s.core with unit := { s.core.unit with
        running := some (.snapshot tag target granted (completed + 1)) } }) ∧
      (last → t.core = { s.core with unit := { s.core.unit with
        running := none
        due := s.core.unit.due ++ [{ tag := tag, code := 8, result := some .done, detail := .plain }]
        dirty := true } }))

/-- FETCH_READ_COMPLETION that ends the fetch of an APPLY that is refused: FETCH_FAILED, SETTINGS_CHANGED, LAYOUT_LOCKED or
INVALID_SETTINGS with the first failing field, the first that applies; the command ends with its answer due and nothing else
changes (R179, R180). -/
def Obligations.ApplyRefusedAtItsEnd : Prop :=
  ∀ (r : Completion) (s : State) (i : Issued) (rest : List Issued) (tag : Sys2Proof.Num) (paths : Bool) (f : Fetch)
    (addr : BlockAddr) (len : Fin 8) (result : AnswerResult) (detail : AnswerDetail), s.issued = i :: rest →
    i.owner = .fetch → i.discarded = false → i.request = .read addr len →
    s.core.unit.running = some (.apply tag paths f) → f.completed + 1 = f.granted →
    let failed := f.failed = true ∨ r = .failed
    (failed ∨ f.granted = if paths then 7 else 3) →
    let st := readSettings (f.data ++ (match r with | .done lines => lines.toList.take (len.val + 1) | .failed => []))
    let locked := s.core.unit.run ≠ .stopped ∧ s.core.changesLocked st = true
    ((failed ∧ result = .fetchFailed ∧ detail = .plain) ∨
      (¬failed ∧ s.core.unit.disturbed = true ∧ result = .settingsChanged ∧ detail = .plain) ∨
      (¬failed ∧ s.core.unit.disturbed = false ∧ locked ∧ result = .layoutLocked ∧ detail = .plain) ∨
      (¬failed ∧ s.core.unit.disturbed = false ∧ ¬locked ∧
        ∃ bad, firstBad s.pageBase st = some bad ∧ result = .invalidSettings ∧
          detail = .invalid bad.table bad.entry bad.offset)) →
    ∃ t, exec (.fetchReadCompletion r) s = .next t ∧ s.InternalDone t rest ∧
      t.core = { s.core with unit := { s.core.unit with
        running := none
        due := s.core.unit.due ++ [{ tag := tag, code := 1, result := some result, detail := detail }]
        dirty := true } }

/-- FETCH_READ_COMPLETION that ends the fetch of an APPLY that is activated: the settings stand whole, the applied flag is
set, the path table is the fetched one when the command asks for it, and DONE is due. In STOPPED the run state, lead time and
horizon stay, a channel whose layout entry changed has its position cleared and its holds FREE, one whose entry did not keeps
its position, and the ring indices become 0 when the record ring changed and stay when it did not. A placement that the
change abandons leaves its writes to the old ring: those issued are ignored when they complete, and one that stands presented
stays so, with the address and the data it had (R14, R22, R53, R87, R149, R171, R181). -/
def Obligations.ApplyActivates : Prop :=
  ∀ (lines : Vector Block 8) (s : State) (i : Issued) (rest : List Issued) (tag : Sys2Proof.Num) (paths : Bool) (f : Fetch)
    (addr : BlockAddr) (len : Fin 8), s.issued = i :: rest → i.owner = .fetch → i.discarded = false →
    i.request = .read addr len → s.core.unit.running = some (.apply tag paths f) → f.completed + 1 = f.granted →
    f.granted = (if paths then 7 else 3) → f.failed = false → s.core.unit.disturbed = false →
    let data := f.data ++ lines.toList.take (len.val + 1)
    let st := readSettings data
    (s.core.unit.run = .stopped ∨ s.core.changesLocked st = false) → firstBad s.pageBase st = none →
    ∃ t, exec (.fetchReadCompletion (.done lines)) s = .next t ∧ t.acq = s.acq ∧ t.host = s.host ∧
      t.issued.map Issued.request = rest.map Issued.request ∧
      t.core.unit.settings = some st ∧ t.core.unit.applied = true ∧ t.core.unit.running = none ∧
      t.core.unit.due = s.core.unit.due ++ [{ tag := tag, code := 1, result := some .done, detail := .plain }] ∧
      s.core.streams.horizon ≤ t.core.streams.horizon ∧
      (s.core.unit.run = .stopped → s.core.Quiet →
        t.core.unit.run = .stopped ∧
        t.core.group.path = (if paths then readPaths data else s.core.group.path) ∧
        t.core.streams.lead = s.core.streams.lead ∧ t.core.streams.horizon = s.core.streams.horizon ∧
        (∀ c, (t.core.tracker c).state = .idle ∧ (t.core.detector c).state = .idle) ∧
        (∀ c, s.core.entryChanged st (ringEntryIndex c) = true →
          (t.core.tracker c).origin = none ∧ (t.core.tracker c).expected = 0 ∧ (t.core.tracker c).count = 0 ∧
          ∀ h x, t.core.hold h = some x → x.chan ≠ c) ∧
        (∀ c, s.core.entryChanged st (ringEntryIndex c) = false →
          (t.core.tracker c).origin = (s.core.tracker c).origin ∧
          (t.core.tracker c).expected = (s.core.tracker c).expected ∧
          (t.core.tracker c).count = (s.core.tracker c).count ∧
          ∀ h x, s.core.hold h = some x → x.chan = c → t.core.hold h = some x) ∧
        (s.core.entryChanged st 33 = true →
          t.core.writer.produce = 0 ∧ t.core.writer.drain = 0 ∧ t.core.writer.occupancy = 0 ∧
          t.core.writer.placement = none ∧ t.core.writer.nextNumber = s.core.writer.nextNumber ∧
          ∀ p, s.core.writer.placement = some p →
            (∀ x ∈ t.issued, x.owner = .record → x.discarded = true) ∧
            (s.arb.record = true → s.core.writer.halted = false →
              t.arb.abandoned = some { addr := s.core.slotAddr (p.write p.granted).1, data := (p.write p.granted).2,
                                       mask := BitVec.allOnes 64 })) ∧
        (s.core.entryChanged st 33 = false →
          t.core.writer.produce = s.core.writer.produce ∧ t.core.writer.drain = s.core.writer.drain ∧
          t.core.writer.occupancy = s.core.writer.occupancy ∧
          t.core.writer.placement = s.core.writer.placement ∧ t.issued = rest ∧
          (s.core.writer.halted = false → t.arb.abandoned = s.arb.abandoned)))

/-- DISCARDED_COMPLETION: a completion of an internal request that CLEAR discarded, or that the abandoning of its placement
did, leaves the issued list and does nothing else; and with nothing issued a completion is ignored (R149, R168, R171). -/
def Obligations.DiscardedIsIgnored : Prop :=
  ∀ (r : Completion) (s : State),
    (∀ i rest, s.issued = i :: rest → i.discarded = true →
      ∃ t, exec (.discardedCompletion r) s = .next t ∧ s.InternalDone t rest ∧ t.core = s.core) ∧
    (s.issued = [] → ∃ t, exec (.discardedCompletion r) s = .next t ∧ s.InternalDone t [] ∧ t.core = s.core)

/-! ### The record writer -/

/-- PLACEMENT, outside SHEDDING: with no placement in progress, not halted and with a record ring, a head that fits (its need,
and 12 free slots left when it may be shed) begins its placement and leaves the queue; one that does not starts a stall under
STALL in PLACING, is discarded under SHED in PLACING when it may be shed, and else waits (R137, R138, R142, R144). That the
records that may be shed and stand behind a discarded head go in the same step is the model's reading (log 12), and the
reading of the time reference is log 2. -/
def Obligations.HeadIsConsidered : Prop :=
  ∀ (time : BitVec 32) (s : State) (r : Record) (rest : List Record), s.core.writer.queue = r :: rest →
    s.core.writer.mode ≠ .shedding → s.core.writer.placement = none → s.core.writer.halted = false →
    s.core.recordEntry.valid = true →
    let left := s.core.slots - s.core.writer.produce
    let pad := if left < r.span then left else 0
    let free := s.core.slots - 1 - s.core.writer.occupancy
    let fits := r.span + pad + (if r.sheddable then 12 else 0) ≤ free
    ∃ t, exec (.placement time) s = .next t ∧ t.timeRef = time ∧ t.acq = s.acq ∧ t.host = s.host ∧ t.issued = s.issued ∧
      (fits → t.core = { s.core with writer := { s.core.writer with
        queue := rest
        placement := some { record := r, number := s.core.writer.nextNumber, start := s.core.writer.produce, pad := pad,
                            granted := 0, completed := 0 } } }) ∧
      (¬fits → s.core.writer.mode = .placing → s.core.global.policy = .stall →
        t.core.writer.mode = .stalling time s.core.global.stallLimit ∧ t.core.writer.queue = r :: rest ∧
        t.core.acquisitionOpen = false ∧
        t.core.writer.loss.stalls = min (s.core.writer.loss.stalls + 1) 65535 ∧ t.core.unit.dirty = true) ∧
      (¬fits → s.core.writer.mode = .placing → s.core.global.policy = .shed → r.sheddable = true →
        t.core.unit.pending &&& 128 = 128 ∧
        (s.core.global.resumeMark < s.core.writer.occupancy →
          t.core.writer.mode = .shedding ∧ t.core.writer.queue = rest.dropWhile Record.sheddable) ∧
        (s.core.writer.occupancy ≤ s.core.global.resumeMark → t.core.writer.mode = .placing)) ∧
      (¬fits → ((s.core.writer.mode = .placing ∧ s.core.global.policy = .shed ∧ r.sheddable = false) ∨
          s.core.writer.mode ≠ .placing) → t.core = s.core)

/-- STALL_EXPIRY: once the elapsed time has reached the limit in force the stall ends in SHEDDING, the expiry is counted, a
sheddable head is discarded and LOSS is raised, and the exit test follows (R144, R145). That the discard comes before the exit
test is the model's reading (log 28), and so is that the records that may be shed behind that head go in the same step (log
12). That the head is the oldest queued record, also while the record that caused the stall is being placed, is the model's own
choice (log 41), and so is that before the limit nothing happens but the reading (log 23). -/
def Obligations.StallExpires : Prop :=
  ∀ (time start : BitVec 32) (limit : Nat) (s : State), s.core.writer.mode = .stalling start limit →
    ∃ t, exec (.stallExpiry time) s = .next t ∧ t.timeRef = time ∧ t.acq = s.acq ∧ t.host = s.host ∧
      t.issued = s.issued ∧
      ((time - start).toNat < limit → t.core = s.core) ∧
      (limit ≤ (time - start).toNat → t.core.acquisitionOpen = true ∧ t.core.unit.pending &&& 128 = 128 ∧
        (s.core.global.resumeMark < s.core.writer.occupancy →
          t.core.writer.mode = .shedding ∧
          t.core.writer.loss.expiries = min (s.core.writer.loss.expiries + 1) 65535 ∧
          t.core.writer.queue = s.core.writer.queue.dropWhile Record.sheddable) ∧
        (s.core.writer.occupancy ≤ s.core.global.resumeMark → t.core.writer.mode = .placing))

/-- PULSE_STROBE_END: the strobe is inactive and nothing else changes (R119). -/
def Obligations.StrobeEnds : Prop :=
  ∀ s : State, ∃ t, exec .pulseStrobeEnd s = .next t ∧ s.LinkKept t ∧
    t.core = { s.core with check := { s.core.check with strobe := false } }

/-! ### Detection, sorting, grouping and holds, one operation each -/

/-- The threshold in force of an ARMED detector at the first sample of a block: T in FIXED mode; in FLOATING mode the larger of
T and noise times M over 8 rounded up, at most 32767. The noise estimate after a quiet block of mean magnitude m moves a
sixteenth of the way, truncated toward zero: it falls by (noise - m) / 16 or rises by (m - noise) / 16 (R25, R26). -/
def Obligations.ThresholdAndNoise : Prop :=
  ∀ (k : Core) (c : Chan),
    let cs := k.settingsOf c
    let noise := (k.detector c).noise
    (∀ (e : Option Nat) (index start : Nat) (x : BitVec 16), (k.detector c).state = .armed e →
      let threshold := ((k.beginBlock c index start x).detector c).threshold
      (cs.mode = .fixed → threshold = cs.threshold) ∧
      (cs.mode = .floating → threshold ≤ 32767 ∧
        ∃ q, 8 * q < noise * cs.margin + 8 ∧ noise * cs.margin ≤ 8 * q ∧ threshold = min (max cs.threshold q) 32767)) ∧
    (∀ m : Nat,
      let after := ((k.updateNoise c m).detector c).noise
      (m ≤ noise → after = noise - (noise - m) / 16) ∧ (noise ≤ m → after = noise + (m - noise) / 16))

/-- A hit that opens takes the next hit number and its context: arrival, opening index, the threshold in force, the settings,
what the monitor holds, and the opening sample as its first measurement; AFTER_TRIGGER in POST_TRIGGER and FROZEN,
FROZEN_CHANNEL and STALLED_CHANNEL by its channel's flags, BELOW_PEAK by the tolerance that governs the newest mean, NOT_GROUPED
exactly when its arrival is refused (R29, R30, R31, R34, R50, R95, R111; the field for that tolerance is log 39). -/
def Obligations.HitOpens : Prop :=
  ∀ (k : Core) (c : Chan) (index t : Nat) (x : BitVec 16) (continuation : Bool),
    let k' := k.openHit c index t x continuation
    k'.hits.nextHit = k.hits.nextHit + 1 ∧
    ∃ h, (k'.detector c).state = .opened h ∧ h.number = k.hits.nextHit ∧ h.chan = c ∧ h.arrival = t ∧
      h.openIndex = index ∧ h.threshold = (k.detector c).threshold ∧ h.peakWin = (k.settingsOf c).peakWin ∧
      h.closeWin = (k.settingsOf c).closeWin ∧ h.guardLen = (k.settingsOf c).guardLen ∧
      h.maxLen = (k.settingsOf c).maxLen ∧ h.mean = k.monitor.mean ∧ h.phase = k.monitor.phase ∧
      h.peak = magnitude x ∧ h.peakTime = t ∧ h.settled = false ∧ h.counts = 1 ∧ h.countsToPeak = 1 ∧ h.lastCrossing = t ∧
      h.energy = x.toInt.natAbs * x.toInt.natAbs ∧ h.snapshot = h.energy ∧ h.flags.continuation = continuation ∧
      (h.flags.belowPeak = true ↔ ∃ m, k.monitor.fifo.getLast? = some m ∧ k.monitor.peakTol < k.monitor.pmax - m) ∧
      (h.flags.afterTrigger = true ↔ k.unit.run = .postTrigger ∨ k.unit.run = .frozen) ∧
      h.flags.frozenChannel = (k.tracker c).frozen ∧ h.flags.stalledChannel = (k.tracker c).stalled ∧
      (h.flags.notGrouped = true ↔ k.streams.horizon ≤ t ∧ 64 ≤ k.group.arrivals.length)

/-- A request for a hold has the first outcome of R72 that applies: no hold for hold mode NONE, for a frozen ring, for a quarter
of the ring exceeded, for a full table; else the lowest FREE entry is PENDING with the release mode, the hit's number and its
range and maximum length reserved. A refused request changes nothing (R72, R74). -/
def Obligations.HoldRequested : Prop :=
  ∀ (k : Core) (c : Chan) (r : HoldRequest),
    let range := k.newRange c r
    let out := k.requestHold c r
    let limit := k.ringSize c / 4 < k.reservedTotal c + range.2 + r.maxLen
    (r.mode = .noHolds → out = (k, .noHold .noMode)) ∧
    (r.mode ≠ .noHolds → (k.tracker c).frozen = true → out = (k, .noHold .frozen)) ∧
    (r.mode ≠ .noHolds → (k.tracker c).frozen = false → limit → out = (k, .noHold .limit)) ∧
    (r.mode ≠ .noHolds → (k.tracker c).frozen = false → ¬limit → (∀ h, k.hold h ≠ none) → out = (k, .noHold .table)) ∧
    (∀ h, r.mode ≠ .noHolds → (k.tracker c).frozen = false → ¬limit → k.hold h = none → (∀ g, g < h → k.hold g ≠ none) →
      out.2 = .held h ∧ (∀ g, g ≠ h → out.1.hold g = k.hold g) ∧ out.1.streams = k.streams ∧ out.1.hits = k.hits ∧
      ∃ x, out.1.hold h = some x ∧ x.state = .pending ∧ x.chan = c ∧ x.first = range.1 ∧ x.count = range.2 ∧
        x.reserved = range.2 + r.maxLen ∧ x.absorbed = 0 ∧ x.owner = r.hit ∧ x.capped = false ∧
        (x.release = .onRead ↔ r.mode = .onRead))

/-- An arrival offered at or above the horizon is listed at its place while fewer than 64 are listed, and else refused and
counted; one below the horizon is accepted and taken at once: the list stays, and it is late exactly when it lies below the
last taken time, else it becomes the last taken time (R50, R51, R52). -/
def Obligations.ArrivalOffered : Prop :=
  ∀ (k : Core) (a : Arrival),
    let out := k.offerArrival a
    (k.streams.horizon ≤ a.time → k.group.arrivals.length < 64 →
      out.2 = true ∧ ∃ before after, k.group.arrivals = before ++ after ∧
        out.1 = { k with group := { k.group with arrivals := before ++ a :: after } } ∧
        (inArrivalOrder k.group.arrivals → inArrivalOrder (before ++ a :: after))) ∧
    (k.streams.horizon ≤ a.time → 64 ≤ k.group.arrivals.length →
      out = ({ k with group := { k.group with refused := min (k.group.refused + 1) 65535 } }, false)) ∧
    (a.time < k.streams.horizon →
      out.2 = true ∧ out.1.group.arrivals = k.group.arrivals ∧
      ((∃ t, k.group.lastTaken = some t ∧ a.time < t) →
        out.1.group.late = min (k.group.late + 1) 65535 ∧ out.1.group.lastTaken = k.group.lastTaken) ∧
      ((∀ t, k.group.lastTaken = some t → t ≤ a.time) → out.1.group.lastTaken = some a.time))

/-- An event that closes frees its entry and no other; with its minimum members or more its EVENT record, with its end reason,
the horizon and the grouper's counts, is handed to the record writer; with fewer the sparse count rises and the record writer
is left alone (R60, R69). -/
def Obligations.EventCloses : Prop :=
  ∀ (k : Core) (i : Fin 8) (e : Event) (reason : EventEnd), look k.group.events i = some e →
    let k' := k.closeEvent i reason
    look k'.group.events i = none ∧ (∀ j, j ≠ i → look k'.group.events j = look k.group.events j) ∧
    k'.group.arrivals = k.group.arrivals ∧ k'.group.nextEvent = k.group.nextEvent ∧
    (e.minMembers ≤ e.members.length → k'.group.sparse = k.group.sparse ∧
      k.HandedOver k' (.event { event := e, reason := reason, horizon := k.streams.horizon, refused := k.group.refused,
                                late := k.group.late, forced := k.group.forced, sparse := k.group.sparse })) ∧
    (e.members.length < e.minMembers → k'.group.sparse = min (k.group.sparse + 1) 65535 ∧ k'.writer = k.writer)

/-! ### Formats -/

/-- The path table that a PATHS snapshot writes is the table that an APPLY with path table reads from the same blocks: every
entry at every value comes back (R53, R153, R156, R182). -/
def Obligations.PathTableReadsBack : Prop :=
  ∀ (k : Core) (data : List Block), (∀ f : Chan, fetched data (34 + f.val) = k.snapshotBlock .paths f.val) →
    readPaths data = k.group.path

/-! ### What every step keeps -/

/-- At State.reset every invariant of this section holds; that reset memory of the straps is 0 is log 1. -/
def Obligations.ResetIsSound : Prop :=
  State.reset.LinkSound ∧ State.reset.CommandSound ∧ State.reset.core.RingSound ∧ State.reset.core.GroupingSound ∧
    State.reset.core.RunSound ∧ State.reset.present.present = State.reset.present

/-- The link stays sound: at most 16 outstanding on each port and 16 issued, nothing complete left at the head of a queue,
requests issued in acceptance order, the issued list in agreement with the accepted queues, no upstream request discarded
(R160, R165, R166, R168, R169). -/
def Obligations.LinkStaysSound : Prop := ∀ s t : State, s.LinkSound → step s = .next t → t.LinkSound

/-- The command unit stays sound: no answer due beside a running command, at most two due, and the active settings pass every
test of validation (R174, R180, R183). -/
def Obligations.CommandsStaySound : Prop := ∀ s t : State, s.CommandSound → step s = .next t → t.CommandSound

/-- The record ring stays sound: produce index = drain index + occupancy modulo the slots, one slot always free, and a
placement in progress begins at the produce index and fits (R136, R137, R139, R141, R149). -/
def Obligations.RecordRingStaysSound : Prop :=
  ∀ s t : State, s.core.RingSound → step s = .next t → t.core.RingSound

/-- Sorter and grouper stay sound: at most 64 arrivals in order of time and channel and at most 16 means; no listed arrival and
no open event's window end lies below the horizon (R49, R50, R51, R59, R90). -/
def Obligations.GroupingStaysSound : Prop :=
  ∀ s t : State, s.core.GroupingSound → step s = .next t → t.core.GroupingSound

/-- The run stays sound: in STOPPED nothing runs; the post-trigger context stands exactly in POST_TRIGGER and FROZEN; a ring is
COUNTING exactly in POST_TRIGGER; a check runs in LISTENING only, a queued trigger and a detector in CHECK only beside it
(R2, R42, R101, R105, R107, R115). -/
def Obligations.RunStaysSound : Prop := ∀ s t : State, s.core.RunSound → step s = .next t → t.core.RunSound

/-- The horizon never falls but at START, CLEAR and the resets: a step that is no reset and that finds and leaves a run keeps it
or raises it (R18). -/
def Obligations.HorizonNeverFalls : Prop :=
  ∀ s t : State, step s = .next t → (∀ c rest, s.pending = c :: rest → c ≠ .linkReset ∧ ∀ straps, c ≠ .powerOn straps) →
    s.core.unit.run ≠ .stopped → t.core.unit.run ≠ .stopped → s.core.streams.horizon ≤ t.core.streams.horizon
end

