-- ==== Sys2Proof/Laws/State.lean ====
section
/-! SUPPORT. Field lemmas of the state's updates, all true by rfl, and the reading of a per-channel table after a write to
it. -/

namespace Sys2Proof.Machine

/-! ### The blocks behind the link -/

@[simp] theorem Core.setStreams_streams (k : Core) (x) : (k.setStreams x).streams = x := rfl
@[simp] theorem Core.setStreams_hits (k : Core) (x) : (k.setStreams x).hits = k.hits := rfl
@[simp] theorem Core.setStreams_group (k : Core) (x) : (k.setStreams x).group = k.group := rfl
@[simp] theorem Core.setStreams_guard (k : Core) (x) : (k.setStreams x).guard = k.guard := rfl
@[simp] theorem Core.setStreams_monitor (k : Core) (x) : (k.setStreams x).monitor = k.monitor := rfl
@[simp] theorem Core.setStreams_check (k : Core) (x) : (k.setStreams x).check = k.check := rfl
@[simp] theorem Core.setStreams_writer (k : Core) (x) : (k.setStreams x).writer = k.writer := rfl
@[simp] theorem Core.setStreams_unit (k : Core) (x) : (k.setStreams x).unit = k.unit := rfl
@[simp] theorem Core.setStreams_choices (k : Core) (x) : (k.setStreams x).choices = k.choices := rfl
@[simp] theorem Core.setHits_streams (k : Core) (x) : (k.setHits x).streams = k.streams := rfl
@[simp] theorem Core.setHits_hits (k : Core) (x) : (k.setHits x).hits = x := rfl
@[simp] theorem Core.setHits_group (k : Core) (x) : (k.setHits x).group = k.group := rfl
@[simp] theorem Core.setHits_guard (k : Core) (x) : (k.setHits x).guard = k.guard := rfl
@[simp] theorem Core.setHits_monitor (k : Core) (x) : (k.setHits x).monitor = k.monitor := rfl
@[simp] theorem Core.setHits_check (k : Core) (x) : (k.setHits x).check = k.check := rfl
@[simp] theorem Core.setHits_writer (k : Core) (x) : (k.setHits x).writer = k.writer := rfl
@[simp] theorem Core.setHits_unit (k : Core) (x) : (k.setHits x).unit = k.unit := rfl
@[simp] theorem Core.setHits_choices (k : Core) (x) : (k.setHits x).choices = k.choices := rfl
@[simp] theorem Core.setGroup_streams (k : Core) (x) : (k.setGroup x).streams = k.streams := rfl
@[simp] theorem Core.setGroup_hits (k : Core) (x) : (k.setGroup x).hits = k.hits := rfl
@[simp] theorem Core.setGroup_group (k : Core) (x) : (k.setGroup x).group = x := rfl
@[simp] theorem Core.setGroup_guard (k : Core) (x) : (k.setGroup x).guard = k.guard := rfl
@[simp] theorem Core.setGroup_monitor (k : Core) (x) : (k.setGroup x).monitor = k.monitor := rfl
@[simp] theorem Core.setGroup_check (k : Core) (x) : (k.setGroup x).check = k.check := rfl
@[simp] theorem Core.setGroup_writer (k : Core) (x) : (k.setGroup x).writer = k.writer := rfl
@[simp] theorem Core.setGroup_unit (k : Core) (x) : (k.setGroup x).unit = k.unit := rfl
@[simp] theorem Core.setGroup_choices (k : Core) (x) : (k.setGroup x).choices = k.choices := rfl
@[simp] theorem Core.setGuard_streams (k : Core) (x) : (k.setGuard x).streams = k.streams := rfl
@[simp] theorem Core.setGuard_hits (k : Core) (x) : (k.setGuard x).hits = k.hits := rfl
@[simp] theorem Core.setGuard_group (k : Core) (x) : (k.setGuard x).group = k.group := rfl
@[simp] theorem Core.setGuard_guard (k : Core) (x) : (k.setGuard x).guard = x := rfl
@[simp] theorem Core.setGuard_monitor (k : Core) (x) : (k.setGuard x).monitor = k.monitor := rfl
@[simp] theorem Core.setGuard_check (k : Core) (x) : (k.setGuard x).check = k.check := rfl
@[simp] theorem Core.setGuard_writer (k : Core) (x) : (k.setGuard x).writer = k.writer := rfl
@[simp] theorem Core.setGuard_unit (k : Core) (x) : (k.setGuard x).unit = k.unit := rfl
@[simp] theorem Core.setGuard_choices (k : Core) (x) : (k.setGuard x).choices = k.choices := rfl
@[simp] theorem Core.setMonitor_streams (k : Core) (x) : (k.setMonitor x).streams = k.streams := rfl
@[simp] theorem Core.setMonitor_hits (k : Core) (x) : (k.setMonitor x).hits = k.hits := rfl
@[simp] theorem Core.setMonitor_group (k : Core) (x) : (k.setMonitor x).group = k.group := rfl
@[simp] theorem Core.setMonitor_guard (k : Core) (x) : (k.setMonitor x).guard = k.guard := rfl
@[simp] theorem Core.setMonitor_monitor (k : Core) (x) : (k.setMonitor x).monitor = x := rfl
@[simp] theorem Core.setMonitor_check (k : Core) (x) : (k.setMonitor x).check = k.check := rfl
@[simp] theorem Core.setMonitor_writer (k : Core) (x) : (k.setMonitor x).writer = k.writer := rfl
@[simp] theorem Core.setMonitor_unit (k : Core) (x) : (k.setMonitor x).unit = k.unit := rfl
@[simp] theorem Core.setMonitor_choices (k : Core) (x) : (k.setMonitor x).choices = k.choices := rfl
@[simp] theorem Core.setCheck_streams (k : Core) (x) : (k.setCheck x).streams = k.streams := rfl
@[simp] theorem Core.setCheck_hits (k : Core) (x) : (k.setCheck x).hits = k.hits := rfl
@[simp] theorem Core.setCheck_group (k : Core) (x) : (k.setCheck x).group = k.group := rfl
@[simp] theorem Core.setCheck_guard (k : Core) (x) : (k.setCheck x).guard = k.guard := rfl
@[simp] theorem Core.setCheck_monitor (k : Core) (x) : (k.setCheck x).monitor = k.monitor := rfl
@[simp] theorem Core.setCheck_check (k : Core) (x) : (k.setCheck x).check = x := rfl
@[simp] theorem Core.setCheck_writer (k : Core) (x) : (k.setCheck x).writer = k.writer := rfl
@[simp] theorem Core.setCheck_unit (k : Core) (x) : (k.setCheck x).unit = k.unit := rfl
@[simp] theorem Core.setCheck_choices (k : Core) (x) : (k.setCheck x).choices = k.choices := rfl
@[simp] theorem Core.setWriter_streams (k : Core) (x) : (k.setWriter x).streams = k.streams := rfl
@[simp] theorem Core.setWriter_hits (k : Core) (x) : (k.setWriter x).hits = k.hits := rfl
@[simp] theorem Core.setWriter_group (k : Core) (x) : (k.setWriter x).group = k.group := rfl
@[simp] theorem Core.setWriter_guard (k : Core) (x) : (k.setWriter x).guard = k.guard := rfl
@[simp] theorem Core.setWriter_monitor (k : Core) (x) : (k.setWriter x).monitor = k.monitor := rfl
@[simp] theorem Core.setWriter_check (k : Core) (x) : (k.setWriter x).check = k.check := rfl
@[simp] theorem Core.setWriter_writer (k : Core) (x) : (k.setWriter x).writer = x := rfl
@[simp] theorem Core.setWriter_unit (k : Core) (x) : (k.setWriter x).unit = k.unit := rfl
@[simp] theorem Core.setWriter_choices (k : Core) (x) : (k.setWriter x).choices = k.choices := rfl
@[simp] theorem Core.setUnit_streams (k : Core) (x) : (k.setUnit x).streams = k.streams := rfl
@[simp] theorem Core.setUnit_hits (k : Core) (x) : (k.setUnit x).hits = k.hits := rfl
@[simp] theorem Core.setUnit_group (k : Core) (x) : (k.setUnit x).group = k.group := rfl
@[simp] theorem Core.setUnit_guard (k : Core) (x) : (k.setUnit x).guard = k.guard := rfl
@[simp] theorem Core.setUnit_monitor (k : Core) (x) : (k.setUnit x).monitor = k.monitor := rfl
@[simp] theorem Core.setUnit_check (k : Core) (x) : (k.setUnit x).check = k.check := rfl
@[simp] theorem Core.setUnit_writer (k : Core) (x) : (k.setUnit x).writer = k.writer := rfl
@[simp] theorem Core.setUnit_unit (k : Core) (x) : (k.setUnit x).unit = x := rfl
@[simp] theorem Core.setUnit_choices (k : Core) (x) : (k.setUnit x).choices = k.choices := rfl
@[simp] theorem Core.setChoices_streams (k : Core) (x) : (k.setChoices x).streams = k.streams := rfl
@[simp] theorem Core.setChoices_hits (k : Core) (x) : (k.setChoices x).hits = k.hits := rfl
@[simp] theorem Core.setChoices_group (k : Core) (x) : (k.setChoices x).group = k.group := rfl
@[simp] theorem Core.setChoices_guard (k : Core) (x) : (k.setChoices x).guard = k.guard := rfl
@[simp] theorem Core.setChoices_monitor (k : Core) (x) : (k.setChoices x).monitor = k.monitor := rfl
@[simp] theorem Core.setChoices_check (k : Core) (x) : (k.setChoices x).check = k.check := rfl
@[simp] theorem Core.setChoices_writer (k : Core) (x) : (k.setChoices x).writer = k.writer := rfl
@[simp] theorem Core.setChoices_unit (k : Core) (x) : (k.setChoices x).unit = k.unit := rfl
@[simp] theorem Core.setChoices_choices (k : Core) (x) : (k.setChoices x).choices = x := rfl

/-! ### The whole part -/

@[simp] theorem State.setCore_strap (s : State) (x) : (s.setCore x).strap = s.strap := rfl
@[simp] theorem State.setCore_linkReset (s : State) (x) : (s.setCore x).linkReset = s.linkReset := rfl
@[simp] theorem State.setCore_timeRef (s : State) (x) : (s.setCore x).timeRef = s.timeRef := rfl
@[simp] theorem State.setCore_acq (s : State) (x) : (s.setCore x).acq = s.acq := rfl
@[simp] theorem State.setCore_host (s : State) (x) : (s.setCore x).host = s.host := rfl
@[simp] theorem State.setCore_issued (s : State) (x) : (s.setCore x).issued = s.issued := rfl
@[simp] theorem State.setCore_arb (s : State) (x) : (s.setCore x).arb = s.arb := rfl
@[simp] theorem State.setCore_core (s : State) (x) : (s.setCore x).core = x := rfl
@[simp] theorem State.setCore_pending (s : State) (x) : (s.setCore x).pending = s.pending := rfl
@[simp] theorem State.setIssued_strap (s : State) (x) : (s.setIssued x).strap = s.strap := rfl
@[simp] theorem State.setIssued_linkReset (s : State) (x) : (s.setIssued x).linkReset = s.linkReset := rfl
@[simp] theorem State.setIssued_timeRef (s : State) (x) : (s.setIssued x).timeRef = s.timeRef := rfl
@[simp] theorem State.setIssued_acq (s : State) (x) : (s.setIssued x).acq = s.acq := rfl
@[simp] theorem State.setIssued_host (s : State) (x) : (s.setIssued x).host = s.host := rfl
@[simp] theorem State.setIssued_issued (s : State) (x) : (s.setIssued x).issued = x := rfl
@[simp] theorem State.setIssued_arb (s : State) (x) : (s.setIssued x).arb = s.arb := rfl
@[simp] theorem State.setIssued_core (s : State) (x) : (s.setIssued x).core = s.core := rfl
@[simp] theorem State.setIssued_pending (s : State) (x) : (s.setIssued x).pending = s.pending := rfl
@[simp] theorem State.setArb_strap (s : State) (x) : (s.setArb x).strap = s.strap := rfl
@[simp] theorem State.setArb_linkReset (s : State) (x) : (s.setArb x).linkReset = s.linkReset := rfl
@[simp] theorem State.setArb_timeRef (s : State) (x) : (s.setArb x).timeRef = s.timeRef := rfl
@[simp] theorem State.setArb_acq (s : State) (x) : (s.setArb x).acq = s.acq := rfl
@[simp] theorem State.setArb_host (s : State) (x) : (s.setArb x).host = s.host := rfl
@[simp] theorem State.setArb_issued (s : State) (x) : (s.setArb x).issued = s.issued := rfl
@[simp] theorem State.setArb_arb (s : State) (x) : (s.setArb x).arb = x := rfl
@[simp] theorem State.setArb_core (s : State) (x) : (s.setArb x).core = s.core := rfl
@[simp] theorem State.setArb_pending (s : State) (x) : (s.setArb x).pending = s.pending := rfl
@[simp] theorem State.setTimeRef_strap (s : State) (x) : (s.setTimeRef x).strap = s.strap := rfl
@[simp] theorem State.setTimeRef_linkReset (s : State) (x) : (s.setTimeRef x).linkReset = s.linkReset := rfl
@[simp] theorem State.setTimeRef_timeRef (s : State) (x) : (s.setTimeRef x).timeRef = x := rfl
@[simp] theorem State.setTimeRef_acq (s : State) (x) : (s.setTimeRef x).acq = s.acq := rfl
@[simp] theorem State.setTimeRef_host (s : State) (x) : (s.setTimeRef x).host = s.host := rfl
@[simp] theorem State.setTimeRef_issued (s : State) (x) : (s.setTimeRef x).issued = s.issued := rfl
@[simp] theorem State.setTimeRef_arb (s : State) (x) : (s.setTimeRef x).arb = s.arb := rfl
@[simp] theorem State.setTimeRef_core (s : State) (x) : (s.setTimeRef x).core = s.core := rfl
@[simp] theorem State.setTimeRef_pending (s : State) (x) : (s.setTimeRef x).pending = s.pending := rfl
@[simp] theorem State.setLinkReset_strap (s : State) (x) : (s.setLinkReset x).strap = s.strap := rfl
@[simp] theorem State.setLinkReset_linkReset (s : State) (x) : (s.setLinkReset x).linkReset = x := rfl
@[simp] theorem State.setLinkReset_timeRef (s : State) (x) : (s.setLinkReset x).timeRef = s.timeRef := rfl
@[simp] theorem State.setLinkReset_acq (s : State) (x) : (s.setLinkReset x).acq = s.acq := rfl
@[simp] theorem State.setLinkReset_host (s : State) (x) : (s.setLinkReset x).host = s.host := rfl
@[simp] theorem State.setLinkReset_issued (s : State) (x) : (s.setLinkReset x).issued = s.issued := rfl
@[simp] theorem State.setLinkReset_arb (s : State) (x) : (s.setLinkReset x).arb = s.arb := rfl
@[simp] theorem State.setLinkReset_core (s : State) (x) : (s.setLinkReset x).core = s.core := rfl
@[simp] theorem State.setLinkReset_pending (s : State) (x) : (s.setLinkReset x).pending = s.pending := rfl
@[simp] theorem State.setPort_acquisition_strap (s : State) (x) : (s.setPort .acquisition x).strap = s.strap := rfl
@[simp] theorem State.setPort_acquisition_linkReset (s : State) (x) : (s.setPort .acquisition x).linkReset = s.linkReset := rfl
@[simp] theorem State.setPort_acquisition_timeRef (s : State) (x) : (s.setPort .acquisition x).timeRef = s.timeRef := rfl
@[simp] theorem State.setPort_acquisition_acq (s : State) (x) : (s.setPort .acquisition x).acq = x := rfl
@[simp] theorem State.setPort_acquisition_host (s : State) (x) : (s.setPort .acquisition x).host = s.host := rfl
@[simp] theorem State.setPort_acquisition_issued (s : State) (x) : (s.setPort .acquisition x).issued = s.issued := rfl
@[simp] theorem State.setPort_acquisition_arb (s : State) (x) : (s.setPort .acquisition x).arb = s.arb := rfl
@[simp] theorem State.setPort_acquisition_core (s : State) (x) : (s.setPort .acquisition x).core = s.core := rfl
@[simp] theorem State.setPort_acquisition_pending (s : State) (x) : (s.setPort .acquisition x).pending = s.pending := rfl
@[simp] theorem State.setPort_host_strap (s : State) (x) : (s.setPort .host x).strap = s.strap := rfl
@[simp] theorem State.setPort_host_linkReset (s : State) (x) : (s.setPort .host x).linkReset = s.linkReset := rfl
@[simp] theorem State.setPort_host_timeRef (s : State) (x) : (s.setPort .host x).timeRef = s.timeRef := rfl
@[simp] theorem State.setPort_host_acq (s : State) (x) : (s.setPort .host x).acq = s.acq := rfl
@[simp] theorem State.setPort_host_host (s : State) (x) : (s.setPort .host x).host = x := rfl
@[simp] theorem State.setPort_host_issued (s : State) (x) : (s.setPort .host x).issued = s.issued := rfl
@[simp] theorem State.setPort_host_arb (s : State) (x) : (s.setPort .host x).arb = s.arb := rfl
@[simp] theorem State.setPort_host_core (s : State) (x) : (s.setPort .host x).core = s.core := rfl
@[simp] theorem State.setPort_host_pending (s : State) (x) : (s.setPort .host x).pending = s.pending := rfl
@[simp] theorem State.setPort_strap (s : State) (p x) : (s.setPort p x).strap = s.strap := by cases p <;> rfl
@[simp] theorem State.setPort_linkReset (s : State) (p x) : (s.setPort p x).linkReset = s.linkReset := by cases p <;> rfl
@[simp] theorem State.setPort_timeRef (s : State) (p x) : (s.setPort p x).timeRef = s.timeRef := by cases p <;> rfl
@[simp] theorem State.setPort_issued (s : State) (p x) : (s.setPort p x).issued = s.issued := by cases p <;> rfl
@[simp] theorem State.setPort_arb (s : State) (p x) : (s.setPort p x).arb = s.arb := by cases p <;> rfl
@[simp] theorem State.setPort_core (s : State) (p x) : (s.setPort p x).core = s.core := by cases p <;> rfl
@[simp] theorem State.setPort_pending (s : State) (p x) : (s.setPort p x).pending = s.pending := by cases p <;> rfl

@[simp] theorem State.port_acquisition (s : State) : s.port .acquisition = s.acq := rfl
@[simp] theorem State.port_host (s : State) : s.port .host = s.host := rfl

theorem State.port_setPort (s : State) (p q : Port) (x : PortState) :
    (s.setPort p x).port q = if p = q then x else s.port q := by
  cases p <;> cases q <;> rfl

@[simp] theorem State.port_setPort_self (s : State) (p : Port) (x : PortState) : (s.setPort p x).port p = x := by
  cases p <;> rfl

@[simp] theorem State.port_setCore (s : State) (p : Port) (x) : (s.setCore x).port p = s.port p := by cases p <;> rfl
@[simp] theorem State.port_setArb (s : State) (p : Port) (x) : (s.setArb x).port p = s.port p := by cases p <;> rfl
@[simp] theorem State.port_setIssued (s : State) (p : Port) (x) : (s.setIssued x).port p = s.port p := by
  cases p <;> rfl

/-! ### Tables -/

@[simp] theorem Core.tracker_setTracker_self (k : Core) (c : Chan) (t : Tracker) : (k.setTracker c t).tracker c = t := by
  simp [Core.tracker, Core.setTracker]

theorem Core.tracker_setTracker (k : Core) (c j : Chan) (t : Tracker) :
    (k.setTracker c t).tracker j = if c = j then t else k.tracker j := by
  simp [Core.tracker, Core.setTracker, look_put]

@[simp] theorem Core.detector_setDetector_self (k : Core) (c : Chan) (d : Detector) :
    (k.setDetector c d).detector c = d := by
  simp [Core.detector, Core.setDetector]

theorem Core.detector_setDetector (k : Core) (c j : Chan) (d : Detector) :
    (k.setDetector c d).detector j = if c = j then d else k.detector j := by
  simp [Core.detector, Core.setDetector, look_put]

@[simp] theorem Core.hold_setHold_self (k : Core) (h : Fin 64) (x : Option Hold) : (k.setHold h x).hold h = x := by
  simp [Core.hold, Core.setHold]

theorem Core.hold_setHold (k : Core) (h g : Fin 64) (x : Option Hold) :
    (k.setHold h x).hold g = if h = g then x else k.hold g := by
  simp [Core.hold, Core.setHold, look_put]

@[simp] theorem Core.freezeOf_setFreeze_self (k : Core) (c : Chan) (x : RingFreeze) : (k.setFreeze c x).freezeOf c = x := by
  simp [Core.freezeOf, Core.setFreeze]

theorem Core.freezeOf_setFreeze (k : Core) (c j : Chan) (x : RingFreeze) :
    (k.setFreeze c x).freezeOf j = if c = j then x else k.freezeOf j := by
  simp [Core.freezeOf, Core.setFreeze, look_put]

@[simp] theorem Core.setTracker_hits (k : Core) (c t) : (k.setTracker c t).hits = k.hits := rfl
@[simp] theorem Core.setTracker_group (k : Core) (c t) : (k.setTracker c t).group = k.group := rfl
@[simp] theorem Core.setTracker_guard (k : Core) (c t) : (k.setTracker c t).guard = k.guard := rfl
@[simp] theorem Core.setTracker_monitor (k : Core) (c t) : (k.setTracker c t).monitor = k.monitor := rfl
@[simp] theorem Core.setTracker_check (k : Core) (c t) : (k.setTracker c t).check = k.check := rfl
@[simp] theorem Core.setTracker_writer (k : Core) (c t) : (k.setTracker c t).writer = k.writer := rfl
@[simp] theorem Core.setTracker_unit (k : Core) (c t) : (k.setTracker c t).unit = k.unit := rfl
@[simp] theorem Core.setTracker_choices (k : Core) (c t) : (k.setTracker c t).choices = k.choices := rfl
@[simp] theorem Core.setDetector_streams (k : Core) (c d) : (k.setDetector c d).streams = k.streams := rfl
@[simp] theorem Core.setDetector_group (k : Core) (c d) : (k.setDetector c d).group = k.group := rfl
@[simp] theorem Core.setDetector_guard (k : Core) (c d) : (k.setDetector c d).guard = k.guard := rfl
@[simp] theorem Core.setDetector_monitor (k : Core) (c d) : (k.setDetector c d).monitor = k.monitor := rfl
@[simp] theorem Core.setDetector_check (k : Core) (c d) : (k.setDetector c d).check = k.check := rfl
@[simp] theorem Core.setDetector_writer (k : Core) (c d) : (k.setDetector c d).writer = k.writer := rfl
@[simp] theorem Core.setDetector_unit (k : Core) (c d) : (k.setDetector c d).unit = k.unit := rfl
@[simp] theorem Core.setDetector_choices (k : Core) (c d) : (k.setDetector c d).choices = k.choices := rfl
@[simp] theorem Core.setHold_streams (k : Core) (h x) : (k.setHold h x).streams = k.streams := rfl
@[simp] theorem Core.setHold_hits (k : Core) (h x) : (k.setHold h x).hits = k.hits := rfl
@[simp] theorem Core.setHold_group (k : Core) (h x) : (k.setHold h x).group = k.group := rfl
@[simp] theorem Core.setHold_monitor (k : Core) (h x) : (k.setHold h x).monitor = k.monitor := rfl
@[simp] theorem Core.setHold_check (k : Core) (h x) : (k.setHold h x).check = k.check := rfl
@[simp] theorem Core.setHold_writer (k : Core) (h x) : (k.setHold h x).writer = k.writer := rfl
@[simp] theorem Core.setHold_unit (k : Core) (h x) : (k.setHold h x).unit = k.unit := rfl
@[simp] theorem Core.setHold_choices (k : Core) (h x) : (k.setHold h x).choices = k.choices := rfl
@[simp] theorem Core.setFreeze_streams (k : Core) (c x) : (k.setFreeze c x).streams = k.streams := rfl
@[simp] theorem Core.setFreeze_hits (k : Core) (c x) : (k.setFreeze c x).hits = k.hits := rfl
@[simp] theorem Core.setFreeze_group (k : Core) (c x) : (k.setFreeze c x).group = k.group := rfl
@[simp] theorem Core.setFreeze_monitor (k : Core) (c x) : (k.setFreeze c x).monitor = k.monitor := rfl
@[simp] theorem Core.setFreeze_check (k : Core) (c x) : (k.setFreeze c x).check = k.check := rfl
@[simp] theorem Core.setFreeze_writer (k : Core) (c x) : (k.setFreeze c x).writer = k.writer := rfl
@[simp] theorem Core.setFreeze_unit (k : Core) (c x) : (k.setFreeze c x).unit = k.unit := rfl
@[simp] theorem Core.setFreeze_choices (k : Core) (c x) : (k.setFreeze c x).choices = k.choices := rfl

end Sys2Proof.Machine
end

