-- ==== Sys2Proof/Laws/View.lean ====
section
/-! SUPPORT. What the analysis leaves alone. The view of the part's blocks is everything that a sample, a hit, an arrival, a
trigger, a freeze or a check never changes; one lemma per operation says that it keeps the view. -/

namespace Sys2Proof.Machine

/-- Tracker state, origin, expected index, block count. -/
abbrev Pos := TrackerState × Option Nat × Nat × Nat

def Tracker.pos (t : Tracker) : Pos := (t.state, t.origin, t.expected, t.count)
def PressureTracker.pos (t : PressureTracker) : Pos := (t.state, t.origin, t.expected, t.count)

/-- The parts of the record writer that only placement, drain and reset change. -/
structure RingView where
  produce    : Nat
  drain      : Nat
  occupancy  : Nat
  nextNumber : Num
  placement  : Option Placement
  halted     : Bool

def Writer.ring (w : Writer) : RingView :=
  { produce := w.produce, drain := w.drain, occupancy := w.occupancy, nextNumber := w.nextNumber,
    placement := w.placement, halted := w.halted }

/-- The parts of the command unit that only commands, activations and answers change. -/
structure UnitView where
  running     : Option Running
  settings    : Option Settings
  applied     : Bool
  disturbed   : Bool
  due         : List Answer
  latest      : Answer
  refusal     : RefusalWord
  refusalMark : Bool
  awaiting    : Bool

def CommandUnit.view (u : CommandUnit) : UnitView :=
  { running := u.running, settings := u.settings, applied := u.applied, disturbed := u.disturbed, due := u.due,
    latest := u.latest, refusal := u.refusal, refusalMark := u.refusalMark, awaiting := u.awaiting }

/-- What a mean leaves in the pressure monitor: the FIFO, P_max and the tolerance that governs it. -/
def Monitor.means (m : Monitor) : List Nat × Nat × Nat := (m.fifo, m.pmax, m.peakTol)

structure View where
  pos      : Chan → Pos
  ppos     : Pos
  lastFwd  : Vector (Option Nat) 32
  pLastFwd : Option Nat
  means    : List Nat × Nat × Nat
  select   : BitVec 5
  strobe   : Bool
  ring     : RingView
  unit     : UnitView

def Core.view (k : Core) : View :=
  { pos := fun c => (k.tracker c).pos, ppos := k.streams.pressure.pos, lastFwd := k.guard.lastFwd,
    pLastFwd := k.guard.pLastFwd, means := k.monitor.means, select := k.check.select,
    strobe := k.check.strobe, ring := k.writer.ring, unit := k.unit.view }

/-! ### The view of an update -/

@[simp] theorem Core.setHits_view (k : Core) (x : Hits) : (k.setHits x).view = k.view := rfl
@[simp] theorem Core.setGroup_view (k : Core) (x : Grouper) : (k.setGroup x).view = k.view := rfl
@[simp] theorem Core.setChoices_view (k : Core) (x : Nat) : (k.setChoices x).view = k.view := rfl
@[simp] theorem Core.setHold_view (k : Core) (h : Fin 64) (x : Option Hold) : (k.setHold h x).view = k.view := rfl
@[simp] theorem Core.setFreeze_view (k : Core) (c : Chan) (x : RingFreeze) : (k.setFreeze c x).view = k.view := rfl
@[simp] theorem Core.setPressureFreeze_view (k : Core) (x : RingFreeze) : (k.setPressureFreeze x).view = k.view := rfl
@[simp] theorem Core.setDetector_view (k : Core) (c : Chan) (d : Detector) : (k.setDetector c d).view = k.view := rfl

theorem Core.setWriter_view (k : Core) (w : Writer) (h : w.ring = k.writer.ring) : (k.setWriter w).view = k.view := by
  simp [Core.view, h, Core.tracker]

theorem Core.setUnit_view (k : Core) (u : CommandUnit) (h : u.view = k.unit.view) : (k.setUnit u).view = k.view := by
  simp [Core.view, h, Core.tracker]

theorem Core.setMonitor_view (k : Core) (m : Monitor) (h : m.means = k.monitor.means) :
    (k.setMonitor m).view = k.view := by
  simp [Core.view, h, Core.tracker]

theorem Core.setCheck_view (k : Core) (u : CheckUnit) (hs : u.select = k.check.select) (ht : u.strobe = k.check.strobe) :
    (k.setCheck u).view = k.view := by
  simp [Core.view, hs, ht, Core.tracker]

theorem Core.setTracker_view (k : Core) (c : Chan) (t : Tracker) (h : t.pos = (k.tracker c).pos) :
    (k.setTracker c t).view = k.view := by
  have : (fun j => ((k.setTracker c t).tracker j).pos) = fun j => (k.tracker j).pos := by
    funext j
    rw [Core.tracker_setTracker]
    split
    · subst_vars; exact h
    · rfl
  simp only [Core.view, this]
  rfl

theorem Core.setStreams_view (k : Core) (x : Streams) (h : ∀ c, (look x.chan c).pos = (k.tracker c).pos)
    (hp : x.pressure.pos = k.streams.pressure.pos) : (k.setStreams x).view = k.view := by
  have : (fun j => ((k.setStreams x).tracker j).pos) = fun j => (k.tracker j).pos := funext h
  simp only [Core.view, this, Core.setStreams_streams, hp]
  rfl

/-- A fold of operations that keep the view keeps it. -/
theorem Core.foldl_view {α : Type} (f : Core → α → Core) (hf : ∀ k a, (f k a).view = k.view) (l : List α) (k : Core) :
    (l.foldl f k).view = k.view := by
  induction l generalizing k with
  | nil => rfl
  | cons a l ih => simp [ih, hf]

theorem Core.forChans_view (f : Core → Chan → Core) (hf : ∀ k c, (f k c).view = k.view) (k : Core) :
    (forChans f k).view = k.view := by unfold forChans; exact Core.foldl_view f hf _ k

/-! ### Causes and modes -/

@[simp] theorem Core.markDirty_view (k : Core) : k.markDirty.view = k.view := Core.setUnit_view _ _ rfl
@[simp] theorem Core.setPending_view (k : Core) (p : Byte) : (k.setPending p).view = k.view := Core.setUnit_view _ _ rfl
@[simp] theorem Core.raise_view (k : Core) (c : Cause) : (k.raise c).view = k.view := Core.setPending_view _ _
@[simp] theorem Core.setRun_view (k : Core) (r : RunState) : (k.setRun r).view = k.view := Core.setUnit_view _ _ rfl

/-! ### Record writer -/

@[simp] theorem Core.discard_view (k : Core) (r : Record) (b : Bool) : (k.discard r b).view = k.view :=
  Core.setWriter_view _ _ rfl
@[simp] theorem Core.setQueue_view (k : Core) (q : List Record) : (k.setQueue q).view = k.view :=
  Core.setWriter_view _ _ rfl
@[simp] theorem Core.mergeOrAppend_view (k : Core) (f) (r : Record) : (k.mergeOrAppend f r).view = k.view :=
  Core.setQueue_view _ _
@[simp] theorem Core.countFault_view (k : Core) (p : FaultPlace) : (k.countFault p).view = k.view := by
  cases p <;> first | exact Core.setTracker_view _ _ _ rfl | rfl
@[simp] theorem Core.raiseFault_view (k : Core) (i : FaultInfo) : (k.raiseFault i).view = k.view := by
  simp [Core.raiseFault]
@[simp] theorem Core.handLoss_view (k : Core) (r : LossReason) : (k.handLoss r).view = k.view := by
  rw [Core.handLoss]
  exact (Core.setWriter_view _ _ rfl).trans (Core.mergeOrAppend_view _ _ _)
@[simp] theorem Core.handLossIfCounted_view (k : Core) (r : LossReason) : (k.handLossIfCounted r).view = k.view := by
  unfold Core.handLossIfCounted; split <;> simp
@[simp] theorem Core.setMode_view (k : Core) (m : WriterMode) : (k.setMode m).view = k.view := by
  rw [Core.setMode, Core.markDirty_view]; exact Core.setWriter_view _ _ rfl
@[simp] theorem Core.exitTest_view (k : Core) : k.exitTest.view = k.view := by
  unfold Core.exitTest; split <;> simp
@[simp] theorem Core.shedHeads_view (k : Core) : k.shedHeads.view = k.view := by
  unfold Core.shedHeads
  split
  · simp [Core.foldl_view (fun k r => k.discard r false) fun k r => Core.discard_view k r false]
  · rfl
@[simp] theorem Core.enterShedding_view (k : Core) : k.enterShedding.view = k.view := by simp [Core.enterShedding]
@[simp] theorem Core.handSheddable_view (k : Core) (r : Record) : (k.handSheddable r).view = k.view := by
  unfold Core.handSheddable; split <;> [skip; split] <;> simp
@[simp] theorem Core.handTrigger_view (k : Core) (r : TriggerRecord) : (k.handTrigger r).view = k.view := by
  rw [Core.handTrigger, Core.raise_view]; exact Core.setWriter_view _ _ rfl
@[simp] theorem Core.handFreeze_view (k : Core) (r : FreezeRecord) : (k.handFreeze r).view = k.view :=
  Core.setWriter_view _ _ rfl
@[simp] theorem Core.handCheck_view (k : Core) (r : CheckRecord) : (k.handCheck r).view = k.view := by
  rw [Core.handCheck, Core.raise_view]; exact Core.setWriter_view _ _ rfl
@[simp] theorem Core.endStall_view (k : Core) : k.endStall.view = k.view := by
  unfold Core.endStall; split <;> simp

/-! ### Holds -/

@[simp] theorem Core.requestHold_view (k : Core) (c : Chan) (r : HoldRequest) : (k.requestHold c r).1.view = k.view := by
  unfold Core.requestHold
  dsimp only
  (repeat' split) <;> simp
@[simp] theorem Core.growHold_view (k : Core) (c : Chan) (n : Nat) (h : Fin 64) : (k.growHold c n h).view = k.view := by
  unfold Core.growHold; (repeat' split) <;> simp
@[simp] theorem Core.reportBlock_view (k : Core) (c : Chan) (n : Nat) (h : HitHold) :
    (k.reportBlock c n h).view = k.view := by
  cases h <;> simp [Core.reportBlock]
@[simp] theorem Core.closeHold_view (k : Core) (h : Fin 64) : (k.closeHold h).1.view = k.view := by
  unfold Core.closeHold; (repeat' split) <;> simp
@[simp] theorem Core.reportClosure_view (k : Core) (h : HitHold) : (k.reportClosure h).1.view = k.view := by
  cases h <;> simp [Core.reportClosure]
@[simp] theorem Core.countHoldAbsorbed_view (k : Core) (h : Option (Fin 64)) : (k.countHoldAbsorbed h).view = k.view := by
  unfold Core.countHoldAbsorbed; (repeat' split) <;> simp
@[simp] theorem Core.countAbsorbed_view (k : Core) (c : Chan) (h : Option (Fin 64)) :
    (k.countAbsorbed c h).view = k.view := by
  rw [Core.countAbsorbed, Core.countHoldAbsorbed_view]; exact Core.setTracker_view _ _ _ rfl
@[simp] theorem Core.releaseHold_view (k : Core) (h : Fin 64) : (k.releaseHold h).view = k.view := by
  unfold Core.releaseHold
  split
  · rfl
  · unfold Core.tellReleased; split <;> simp
@[simp] theorem Core.releaseList_view (k : Core) (hs : List (Fin 64)) : (k.releaseList hs).view = k.view :=
  Core.foldl_view _ Core.releaseHold_view hs k
@[simp] theorem Core.readRelease_view (k : Core) (ps : List Place) : (k.readRelease ps).view = k.view := by
  simp [Core.readRelease]

/-! ### Closing hits -/

@[simp] theorem Core.computeThreshold_view (k : Core) (c : Chan) : (k.computeThreshold c).view = k.view := rfl
@[simp] theorem Core.setDetectorState_view (k : Core) (c : Chan) (st : DetectorState) :
    (k.setDetectorState c st).view = k.view := rfl
@[simp] theorem Core.enterArmed_view (k : Core) (c : Chan) (e : Option Nat) : (k.enterArmed c e).view = k.view := rfl
@[simp] theorem Core.enterCheck_view (k : Core) (c : Chan) : (k.enterCheck c).view = k.view := rfl
@[simp] theorem Core.setPrev_view (k : Core) (c : Chan) (m : Nat) : (k.setPrev c m).view = k.view := rfl
@[simp] theorem Core.closeHit_view (k : Core) (h : HitContext) (r : HitEnd) (t : Nat) :
    (k.closeHit h r t).view = k.view := by
  simp [Core.closeHit]
@[simp] theorem Core.closeIfOpen_view (k : Core) (c : Chan) (r : HitEnd) : (k.closeIfOpen c r).view = k.view := by
  unfold Core.closeIfOpen; split <;> simp
@[simp] theorem Core.withdraw_view (k : Core) (c : Chan) : (k.withdraw c).view = k.view := by simp [Core.withdraw]
@[simp] theorem Core.enterCheckAtStart_view (k : Core) (c : Chan) : (k.enterCheckAtStart c).view = k.view := by
  unfold Core.enterCheckAtStart; (repeat' split) <;> simp
@[simp] theorem Core.leaveCheck_view (k : Core) (c : Chan) : (k.leaveCheck c).view = k.view := by
  unfold Core.leaveCheck; split <;> simp

/-! ### Freezing and triggers -/

@[simp] theorem Core.freezeRing_view (k : Core) (c : Chan) (st : FreezeState) : (k.freezeRing c st).view = k.view := by
  rw [Core.freezeRing]
  simp only [Core.setDetector_view]
  refine (Core.setTracker_view _ c _ ?_).trans (Core.setFreeze_view _ _ _)
  rfl
@[simp] theorem Core.freezePressure_view (k : Core) (st : FreezeState) : (k.freezePressure st).view = k.view :=
  Core.setStreams_view _ _ (fun _ => rfl) rfl
@[simp] theorem Core.handFreezeRecord_view (k : Core) (r : FreezeEnd) : (k.handFreezeRecord r).view = k.view := by
  unfold Core.handFreezeRecord; split <;> simp
@[simp] theorem Core.allFrozenStep_view (k : Core) : k.allFrozenStep.view = k.view := by
  unfold Core.allFrozenStep; dsimp only; split <;> simp
@[simp] theorem Core.allFrozenTest_view (k : Core) : k.allFrozenTest.view = k.view := by
  unfold Core.allFrozenTest; split <;> simp
@[simp] theorem Core.freezeAtOnce_view (k : Core) (c : Chan) (st : FreezeState) : (k.freezeAtOnce c st).view = k.view := by
  unfold Core.freezeAtOnce; split <;> simp
@[simp] theorem Core.giveFreezeState_view (k : Core) (c : Chan) : (k.giveFreezeState c).view = k.view := by
  unfold Core.giveFreezeState; split <;> simp
@[simp] theorem Core.takeTrigger_view (k : Core) (t : TriggerTaking) : (k.takeTrigger t).view = k.view := by
  simp only [Core.takeTrigger, Core.allFrozenTest_view, Core.setPressureFreeze_view,
    Core.forChans_view _ Core.giveFreezeState_view, Core.handTrigger_view, Core.setRun_view]
  exact Core.setMonitor_view _ _ rfl
@[simp] theorem Core.extraTrigger_view (k : Core) : k.extraTrigger.view = k.view := by
  unfold Core.extraTrigger; split
  · exact Core.setMonitor_view _ _ rfl
  · rfl
@[simp] theorem Core.endFreeze_view (k : Core) : k.endFreeze.view = k.view := by
  rw [Core.endFreeze]
  refine (Core.setMonitor_view _ _ rfl).trans ?_
  exact Core.setStreams_view k _ (fun c => by simp [Core.tracker, Tracker.pos]) rfl

/-! ### Coupling check -/

@[simp] theorem Core.setCheckState_view (k : Core) (st : CheckState) : (k.setCheckState st).view = k.view := by
  rw [Core.setCheckState, Core.markDirty_view]; exact Core.setCheck_view _ _ rfl rfl
@[simp] theorem Core.setQueuedTrigger_view (k : Core) (q) : (k.setQueuedTrigger q).view = k.view :=
  Core.setCheck_view _ _ rfl rfl
@[simp] theorem Core.writeRow_view (k : Core) (es) : (k.writeRow es).view = k.view := rfl
@[simp] theorem Core.endCheck_view (k : Core) (r : CheckEnd) (a) (q : Bool) : (k.endCheck r a q).view = k.view := by
  unfold Core.endCheck; dsimp only; split <;> simp
@[simp] theorem Core.finishCheck_view (k : Core) (r : CheckEnd) : (k.finishCheck r).view = k.view := by
  unfold Core.finishCheck
  dsimp only
  split <;> simp [Core.forChans_view _ Core.leaveCheck_view]
@[simp] theorem Core.abandonByStop_view (k : Core) : k.abandonByStop.view = k.view := by
  unfold Core.abandonByStop; split <;> simp
@[simp] theorem Core.queueTrigger_view (k : Core) (t : TriggerSource) : (k.queueTrigger t).1.view = k.view := by
  unfold Core.queueTrigger; split <;> simp
@[simp] theorem Core.abandonByTrigger_view (k : Core) (t : TriggerSource) : (k.abandonByTrigger t).1.view = k.view := by
  unfold Core.abandonByTrigger
  dsimp only
  split <;> simp [Core.forChans_view _ Core.leaveCheck_view]
@[simp] theorem Core.dispatchTrigger_view (k : Core) (t : TriggerSource) : (k.dispatchTrigger t).1.view = k.view := by
  unfold Core.dispatchTrigger
  dsimp only
  (repeat' split) <;> simp
@[simp] theorem Core.markStalled_view (k : Core) (c : Chan) : (k.markStalled c).view = k.view := by
  unfold Core.markStalled; split
  · exact Core.setCheck_view _ _ rfl rfl
  · rfl
@[simp] theorem Core.markDisabled_view (k : Core) (c : Chan) : (k.markDisabled c).view = k.view := by
  unfold Core.markDisabled; split
  · exact Core.setCheck_view _ _ rfl rfl
  · rfl

/-! ### Grouping -/

@[simp] theorem Core.setEvent_view (k : Core) (i : Fin 8) (e) : (k.setEvent i e).view = k.view := rfl
@[simp] theorem Core.closeEvent_view (k : Core) (i : Fin 8) (r : EventEnd) : (k.closeEvent i r).view = k.view := by
  unfold Core.closeEvent; dsimp only; (repeat' split) <;> simp
@[simp] theorem Core.closeEvents_view (k : Core) (p) (r : EventEnd) : (k.closeEvents p r).view = k.view :=
  Core.foldl_view (fun k (ie : Fin 8 × Event) => k.closeEvent ie.1 r) (fun k ie => Core.closeEvent_view k ie.1 r) _ k
@[simp] theorem Core.closeBelow_view (k : Core) (t : Nat) : (k.closeBelow t).view = k.view := Core.closeEvents_view _ _ _
@[simp] theorem Core.forceClosure_view (k : Core) : k.forceClosure.view = k.view := by
  unfold Core.forceClosure; split <;> simp
@[simp] theorem Core.openEvent_view (k : Core) (a : Arrival) : (k.openEvent a).view = k.view := by
  unfold Core.openEvent; dsimp only; (repeat' split) <;> simp
@[simp] theorem Core.joinOrOpen_view (k : Core) (a : Arrival) : (k.joinOrOpen a).view = k.view := by
  unfold Core.joinOrOpen; split <;> simp
@[simp] theorem Core.takeArrival_view (k : Core) (a : Arrival) : (k.takeArrival a).view = k.view := by
  unfold Core.takeArrival; dsimp only; split <;> simp
@[simp] theorem Core.takeArrivals_view (k : Core) : k.takeArrivals.view = k.view := by
  simp [Core.takeArrivals, Core.foldl_view _ Core.takeArrival_view]
@[simp] theorem Core.offerArrival_view (k : Core) (a : Arrival) : (k.offerArrival a).1.view = k.view := by
  unfold Core.offerArrival; (repeat' split) <;> simp
@[simp] theorem Core.flushGroups_view (k : Core) : k.flushGroups.view = k.view := by
  simp [Core.flushGroups, Core.foldl_view _ Core.takeArrival_view]

/-! ### Detection -/

@[simp] theorem Core.openHit_view (k : Core) (c : Chan) (i t : Nat) (x : BitVec 16) (b : Bool) :
    (k.openHit c i t x b).view = k.view := by
  simp [Core.openHit]
@[simp] theorem Core.takeArmed_view (k : Core) (c : Chan) (i : Nat) (e) (t : Nat) (x : BitVec 16) :
    (k.takeArmed c i e t x).view = k.view := by
  unfold Core.takeArmed; dsimp only; split <;> simp
@[simp] theorem Core.enterGuard_view (k : Core) (c : Chan) (t g : Nat) : (k.enterGuard c t g).view = k.view := by
  unfold Core.enterGuard; split <;> simp
@[simp] theorem Core.takeOpen_view (k : Core) (c : Chan) (i : Nat) (h : HitContext) (t : Nat) (x : BitVec 16) :
    (k.takeOpen c i h t x).view = k.view := by
  unfold Core.takeOpen; dsimp only; (repeat' split) <;> simp
@[simp] theorem Core.takeGuard_view (k : Core) (c : Chan) (g t : Nat) (x : BitVec 16) :
    (k.takeGuard c g t x).view = k.view := by
  unfold Core.takeGuard; dsimp only; split <;> simp
@[simp] theorem Core.watchSource_view (k : Core) (c : Chan) (b : Bool) (t : Nat) : (k.watchSource c b t).view = k.view := by
  unfold Core.watchSource
  split
  · split
    · simp
    · split
      · rw [Core.setCheckState_view]; exact Core.setCheck_view _ _ rfl rfl
      · rfl
  · rfl
@[simp] theorem Core.takeInCheck_view (k : Core) (c : Chan) (ctx) (t : Nat) (x : BitVec 16) :
    (k.takeInCheck c ctx t x).view = k.view := by
  simp [Core.takeInCheck]
@[simp] theorem Core.takeSample_view (k : Core) (c : Chan) (i t : Nat) (x : BitVec 16) :
    (k.takeSample c i t x).view = k.view := by
  unfold Core.takeSample; (repeat' split) <;> simp
@[simp] theorem Core.beginBlock_view (k : Core) (c : Chan) (i t : Nat) (x : BitVec 16) :
    (k.beginBlock c i t x).view = k.view := by
  unfold Core.beginBlock; (repeat' split) <;> simp
theorem Core.takeSamples_view (c : Chan) (i : Nat) (xs : List (BitVec 16)) (t : Nat) (kq : Core × Bool) :
    (Core.takeSamples c i xs t kq).1.view = kq.1.view := by
  induction xs generalizing t kq with
  | nil => simp [Core.takeSamples]
  | cons x xs ih => obtain ⟨k, q⟩ := kq; simp [Core.takeSamples, ih]
@[simp] theorem Core.takeBlock_view (k : Core) (c : Chan) (i t : Nat) (b : Block) : (k.takeBlock c i t b).view = k.view := by
  have key : ∀ q, (Core.takeSamples c i (samplesOf b) t (k.beginBlock c i t (sampleAt b 0), q)).1.view = k.view := by
    intro q; simp [Core.takeSamples_view]
  unfold Core.takeBlock
  dsimp only
  (repeat' split) <;> simp [Core.updateNoise, key]
@[simp] theorem Core.reportSkip_view (k : Core) (c : Chan) : (k.reportSkip c).view = k.view := by
  unfold Core.reportSkip; split <;> simp

/-! ### Stalls and the horizon -/

@[simp] theorem Core.setStalled_view (k : Core) (c : Chan) (b : Bool) : (k.setStalled c b).view = k.view :=
  Core.setTracker_view _ _ _ rfl
@[simp] theorem Core.recomputeLead_view (k : Core) : k.recomputeLead.view = k.view :=
  Core.setStreams_view _ _ (fun _ => rfl) rfl
@[simp] theorem Core.setHorizon_view (k : Core) (h : Nat) : (k.setHorizon h).view = k.view :=
  Core.setStreams_view _ _ (fun _ => rfl) rfl
@[simp] theorem Core.stallChannel_view (k : Core) (c : Chan) : (k.stallChannel c).view = k.view := by
  simp [Core.stallChannel]
@[simp] theorem Core.stallTest_view (k : Core) (c : Chan) : (k.stallTest c).view = k.view := by
  unfold Core.stallTest; dsimp only; (repeat' split) <;> simp
@[simp] theorem Core.stallTests_view (k : Core) : k.stallTests.view = k.view := Core.forChans_view _ Core.stallTest_view k
@[simp] theorem Core.finishIfPassed_view (k : Core) : k.finishIfPassed.view = k.view := by
  unfold Core.finishIfPassed; split <;> simp
@[simp] theorem Core.choose_view (k : Core) : k.choose.2.view = k.view := rfl
@[simp] theorem Core.handOnHorizon_view (k : Core) : k.handOnHorizon.view = k.view := by
  unfold Core.handOnHorizon; dsimp only; (repeat' split) <;> simp
@[simp] theorem Core.recomputeHorizon_view (k : Core) (b : Bool) : (k.recomputeHorizon b).view = k.view := by
  unfold Core.recomputeHorizon; dsimp only; (repeat' split) <;> simp

/-! ### Reading a view -/

theorem Core.view_settings {k k' : Core} (h : k'.view = k.view) : k'.unit.settings = k.unit.settings :=
  congrArg (fun v => v.unit.settings) h
theorem Core.view_pos {k k' : Core} (h : k'.view = k.view) (c : Chan) : (k'.tracker c).pos = (k.tracker c).pos :=
  congrFun (congrArg View.pos h) c
theorem Core.view_settingsOf {k k' : Core} (h : k'.view = k.view) (c : Chan) : k'.settingsOf c = k.settingsOf c := by
  simp [Core.settingsOf, Core.view_settings h]
theorem Core.view_layoutEntry {k k' : Core} (h : k'.view = k.view) (i : Fin 34) : k'.layoutEntry i = k.layoutEntry i := by
  simp [Core.layoutEntry, Core.view_settings h]
theorem Core.view_global {k k' : Core} (h : k'.view = k.view) : k'.global = k.global := by
  simp [Core.global, Core.view_settings h]
theorem Core.view_ringSize {k k' : Core} (h : k'.view = k.view) (c : Chan) : k'.ringSize c = k.ringSize c := by
  simp [Core.ringSize, Core.ringEntry, Core.view_layoutEntry h]

end Sys2Proof.Machine
end

