-- ==== Sys2Proof/Laws/Loop.lean ====
section
/-! SUPPORT. What an operation applied to every channel in turn does: to what one channel has, and to what a relation between
states keeps. -/

namespace Sys2Proof.Machine

theorem foldl_keeps {α β : Type} {f : Core → β → Core} (F : Core → α) (hf : ∀ k c, F (f k c) = F k) (l : List β) (k : Core) :
    F (l.foldl f k) = F k := by
  induction l generalizing k with
  | nil => rfl
  | cons c l ih => rw [List.foldl_cons, ih, hf]

theorem foldl_rel {β : Type} {f : Core → β → Core} {R : Core → Core → Prop} (hR : ∀ k k' c, R k k' → R k (f k' c))
    (l : List β) (k k' : Core) (h : R k k') : R k (l.foldl f k') := by
  induction l generalizing k' with
  | nil => exact h
  | cons c l ih => exact ih _ (hR _ _ _ h)

theorem forChans_keeps {α : Type} {f : Core → Chan → Core} (F : Core → α) (hf : ∀ k c, F (f k c) = F k) (k : Core) :
    F (forChans f k) = F k := by
  unfold forChans
  exact foldl_keeps F hf _ k

theorem forChans_rel {f : Core → Chan → Core} {R : Core → Core → Prop} (hrefl : ∀ k, R k k)
    (hR : ∀ k k' c, R k k' → R k (f k' c)) (k : Core) : R k (forChans f k) := by
  unfold forChans
  exact foldl_rel hR _ k k (hrefl k)

/-- What channel j has after an operation on every channel: `get` is touched for a channel by that channel's turn alone, and
`g` says what its turn makes of it in any state that the other turns can lead to. -/
theorem forChans_at {α : Type} {get : Core → Chan → α} {f : Core → Chan → Core} {R : Core → Core → Prop}
    {g : Core → Chan → α} (hrefl : ∀ k, R k k) (hR : ∀ k k' c, R k k' → R k (f k' c))
    (hloc : ∀ k c j, j ≠ c → get (f k c) j = get k j)
    (hg : ∀ k k' j, R k k' → get k' j = get k j → get (f k' j) j = g k j) (k : Core) (j : Chan) :
    get (forChans f k) j = g k j := by
  have other : ∀ (l : List Chan) (k' : Core), j ∉ l → get (l.foldl f k') j = get k' j := by
    intro l
    induction l with
    | nil => intros; rfl
    | cons d l ih =>
      intro k' hd
      rw [List.mem_cons, not_or] at hd
      rw [List.foldl_cons, ih _ hd.2, hloc _ _ _ hd.1]
  have key : ∀ (l : List Chan) (k' : Core), l.Nodup → R k k' → get k' j = get k j →
      get (l.foldl f k') j = if j ∈ l then g k j else get k j := by
    intro l
    induction l with
    | nil => intro k' _ _ h; simpa using h
    | cons c l ih =>
      intro k' hn hr h
      rw [List.nodup_cons] at hn
      rw [List.foldl_cons]
      by_cases hj : j = c
      · subst hj
        rw [other _ _ hn.1, hg k k' j hr h]
        simp
      · rw [ih _ hn.2 (hR _ _ _ hr) (by rw [hloc _ _ _ hj, h])]
        simp [hj]
  have := key allChans k (List.nodup_finRange 32) (hrefl k) rfl
  unfold forChans
  rw [this]
  simp [allChans]

end Sys2Proof.Machine
end

