-- ==== Sys2Proof/Laws/Freeze.lean ====
section
/-! SUPPORT. What freezing, the all-frozen step and releasing holds do, said once each. -/

namespace Sys2Proof.Machine

/-! ### Releasing holds -/

/-- The hold table after the release of one entry. -/
theorem releaseHold_hold (k : Core) (h g : Fin 64) : (k.releaseHold h).hold g = if h = g then none else k.hold g := by
  unfold Core.releaseHold
  split
  · rename_i hh; split
    · rename_i e; subst e; exact hh
    · rfl
  · rename_i x hh
    have : ((k.setHold h none).tellReleased x h).hold g = (k.setHold h none).hold g := by
      unfold Core.tellReleased; split <;> rfl
    rw [this]
    simp [Core.hold, Core.setHold, Core.setGuard, look_put]

/-- The hold table after the release of several entries. -/
theorem releaseList_hold (hs : List (Fin 64)) (k : Core) (g : Fin 64) :
    (k.releaseList hs).hold g = if g ∈ hs then none else k.hold g := by
  unfold Core.releaseList
  induction hs generalizing k with
  | nil => rfl
  | cons h hs ih =>
    rw [List.foldl_cons, ih, releaseHold_hold]
    by_cases hg : g ∈ hs <;> simp [hg, eq_comm]

/-- A release leaves everything but the hold table and an open hit as it is. -/
theorem releaseHold_keeps (k : Core) (h : Fin 64) : (k.releaseHold h).streams = k.streams ∧ (k.releaseHold h).group = k.group ∧
    (k.releaseHold h).monitor = k.monitor ∧ (k.releaseHold h).check = k.check ∧ (k.releaseHold h).writer = k.writer ∧
    (k.releaseHold h).unit = k.unit ∧ (k.releaseHold h).hits.nextHit = k.hits.nextHit ∧ (k.releaseHold h).guard.lastFwd = k.guard.lastFwd ∧
    (k.releaseHold h).guard.freeze = k.guard.freeze ∧ (k.releaseHold h).guard.pFreeze = k.guard.pFreeze ∧ (k.releaseHold h).guard.pLastFwd = k.guard.pLastFwd := by
  unfold Core.releaseHold
  split
  · simp
  · unfold Core.tellReleased; split <;> simp [Core.setHold, Core.setGuard, Core.setDetector, Core.setHits]

/-- Several releases leave everything but the hold table and open hits as they are. -/
theorem releaseList_keeps (hs : List (Fin 64)) (k : Core) : (k.releaseList hs).streams = k.streams ∧ (k.releaseList hs).group = k.group ∧
    (k.releaseList hs).monitor = k.monitor ∧ (k.releaseList hs).check = k.check ∧ (k.releaseList hs).writer = k.writer ∧
    (k.releaseList hs).unit = k.unit ∧ (k.releaseList hs).hits.nextHit = k.hits.nextHit ∧ (k.releaseList hs).guard.lastFwd = k.guard.lastFwd ∧
    (k.releaseList hs).guard.freeze = k.guard.freeze ∧ (k.releaseList hs).guard.pFreeze = k.guard.pFreeze ∧ (k.releaseList hs).guard.pLastFwd = k.guard.pLastFwd := by
  unfold Core.releaseList
  induction hs generalizing k with
  | nil => simp
  | cons h hs ih =>
    rw [List.foldl_cons]
    have a := ih (k.releaseHold h); have b := releaseHold_keeps k h
    obtain ⟨a1,a2,a3,a4,a5,a6,a7,a8,a9,a10,a11⟩ := a
    obtain ⟨b1,b2,b3,b4,b5,b6,b7,b8,b9,b10,b11⟩ := b
    simp [a1,a2,a3,a4,a5,a6,a7,a8,a9,a10,a11,b1,b2,b3,b4,b5,b6,b7,b8,b9,b10,b11]

/-! ### Freezing -/

/-- What freezing rings leaves as it is. -/
structure FreezeKept (k k' : Core) : Prop where
  unit : k'.unit = k.unit
  writer : k'.writer = k.writer
  monitor : k'.monitor = k.monitor
  check : k'.check = k.check
  group : k'.group = k.group
  holds : k'.guard.holds = k.guard.holds
  lastFwd : k'.guard.lastFwd = k.guard.lastFwd
  pLastFwd : k'.guard.pLastFwd = k.guard.pLastFwd
  pFreeze : k'.guard.pFreeze = k.guard.pFreeze
  nextHit : k'.hits.nextHit = k.hits.nextHit
  lead : k'.streams.lead = k.streams.lead
  horizon : k'.streams.horizon = k.streams.horizon
  pressure : k'.streams.pressure = k.streams.pressure
  stalled : ∀ c, (k'.tracker c).stalled = (k.tracker c).stalled

theorem FreezeKept.refl (k : Core) : FreezeKept k k := by constructor <;> intros <;> rfl

theorem FreezeKept.trans {a b c : Core} (h : FreezeKept a b) (g : FreezeKept b c) : FreezeKept a c := by
  obtain ⟨a1,a2,a3,a4,a5,a6,a7,a8,a9,a10,a11,a12,a13,a14⟩ := h
  obtain ⟨b1,b2,b3,b4,b5,b6,b7,b8,b9,b10,b11,b12,b13,b14⟩ := g
  constructor <;> first | (intro x; rw [b14, a14]) | simp [*]

theorem freezeRing_kept (k : Core) (c : Chan) (st) : FreezeKept k (k.freezeRing c st) := by
  constructor <;> try rfl
  intro j
  by_cases h : j = c
  · subst h; simp [Core.freezeRing, Core.tracker, Core.setTracker, Core.setStreams, Core.setFreeze, Core.setGuard, Core.setDetector, Core.setHits]
  · have h' : c ≠ j := fun e => h e.symm
    simp [Core.freezeRing, Core.tracker, Core.setTracker, Core.setStreams, Core.setFreeze, Core.setGuard, Core.setDetector, Core.setHits, h']

theorem giveFreezeState_kept (k : Core) (c : Chan) : FreezeKept k (k.giveFreezeState c) := by
  unfold Core.giveFreezeState
  split
  · exact freezeRing_kept _ _ _
  · exact freezeRing_kept _ _ _
  all_goals constructor <;> intros <;> rfl

theorem freezeStateAtTrigger_congr {k k' : Core} (h : FreezeKept k k') (c : Chan) :
    k'.freezeStateAtTrigger c = k.freezeStateAtTrigger c := by
  simp only [Core.freezeStateAtTrigger, Core.hasRing, Core.ringEntry, Core.layoutEntry, Core.enabled, Core.settingsOf, h.unit, h.stalled]
  rfl

/-- The freeze state at a trigger, by its cases. -/
theorem freezeStateAtTrigger_cases (k : Core) (c : Chan) :
    (k.freezeStateAtTrigger c) = if k.hasRing c = false then .noRing else if k.enabled c = false then .disabled else if (k.tracker c).stalled = true then .stalled else .counting := by
  unfold Core.freezeStateAtTrigger
  cases k.hasRing c <;> cases k.enabled c <;> cases (k.tracker c).stalled <;> simp

/-- The freeze states that a trigger gives. -/
theorem give_freezeOf (k : Core) (j : Chan) : ((forChans Core.giveFreezeState k).freezeOf j).state = k.freezeStateAtTrigger j := by
  refine forChans_at (get := fun k j => (k.freezeOf j).state) (R := FreezeKept) (g := fun k j => k.freezeStateAtTrigger j) FreezeKept.refl
    (fun k k' c h => h.trans (giveFreezeState_kept k' c)) ?_ ?_ k j
  · intro k c j h
    have h' : c ≠ j := fun e => h e.symm
    unfold Core.giveFreezeState
    split <;> simp [Core.freezeRing, Core.freezeOf, Core.setFreeze, Core.setGuard, Core.setTracker, Core.setStreams, Core.setDetector, Core.setHits, h']
  · intro k k' j hr _
    rw [← freezeStateAtTrigger_congr hr j]
    have hc := freezeStateAtTrigger_cases k' j
    unfold Core.giveFreezeState
    split <;> rename_i heq <;> simp [Core.freezeRing, Core.freezeOf, Core.setFreeze, Core.setGuard, Core.setTracker, Core.setStreams, Core.setDetector, Core.setHits, heq] <;>
      (rw [heq] at hc; revert hc; split <;> (try split) <;> (try split) <;> simp)

/-- The trackers after a trigger has given the freeze states. -/
theorem give_tracker (k : Core) (j : Chan) : (forChans Core.giveFreezeState k).tracker j =
   { k.tracker j with frozen := (k.tracker j).frozen || (k.hasRing j && (!k.enabled j || (k.tracker j).stalled)) } := by
  refine forChans_at (get := Core.tracker) (R := FreezeKept) (g := fun k j => { k.tracker j with frozen := (k.tracker j).frozen || (k.hasRing j && (!k.enabled j || (k.tracker j).stalled)) }) FreezeKept.refl
    (fun k k' c h => h.trans (giveFreezeState_kept k' c)) ?_ ?_ k j
  · intro k c j h
    have h' : c ≠ j := fun e => h e.symm
    unfold Core.giveFreezeState
    split <;> simp [Core.freezeRing, Core.tracker, Core.setFreeze, Core.setGuard, Core.setTracker, Core.setStreams, Core.setDetector, Core.setHits, h']
  · intro k k' j hr ht
    have e1 : k'.hasRing j = k.hasRing j := by simp [Core.hasRing, Core.ringEntry, Core.layoutEntry, hr.unit]
    have e2 : k'.enabled j = k.enabled j := by simp [Core.enabled, Core.settingsOf, hr.unit]
    have hc := freezeStateAtTrigger_cases k' j
    rw [← e1, ← e2, ← ht]
    unfold Core.giveFreezeState
    have ext : ∀ t : Tracker, { t with frozen := true } = { t with frozen := t.frozen || true } := by simp
    split <;> rename_i heq <;> rw [heq] at hc <;> revert hc <;> split <;> (try split) <;> (try split) <;>
      simp_all [Core.freezeRing, Core.tracker, Core.setFreeze, Core.setGuard, Core.setTracker, Core.setStreams, Core.setDetector, Core.setHits]
    all_goals (generalize look k.streams.chan j = x at *; obtain ⟨⟩ := x; simp_all)

theorem handFreezeRecord_keeps {α : Type} (F : Core → α) (f3 : ∀ k r, F (k.handFreeze r) = F k) (k : Core) (r) :
    F (k.handFreezeRecord r) = F k := by
  unfold Core.handFreezeRecord; split <;> simp [f3]

/-- The all-frozen step keeps whatever its four parts keep. -/
theorem allFrozenStep_keeps {α : Type} (F : Core → α) (f1 : ∀ k st, F (k.freezePressure st) = F k) (f2 : ∀ k r, F (k.setRun r) = F k)
    (f3 : ∀ k r, F (k.handFreeze r) = F k) (f4 : ∀ k c, F (k.raise c) = F k) (k : Core) : F k.allFrozenStep = F k := by
  unfold Core.allFrozenStep
  simp only [f4, handFreezeRecord_keeps F f3, f2]
  split <;> simp [f1]

theorem allFrozenTest_keeps {α : Type} (F : Core → α) (f1 : ∀ k st, F (k.freezePressure st) = F k) (f2 : ∀ k r, F (k.setRun r) = F k)
    (f3 : ∀ k r, F (k.handFreeze r) = F k) (f4 : ∀ k c, F (k.raise c) = F k) (k : Core) : F k.allFrozenTest = F k := by
  unfold Core.allFrozenTest
  split
  · rfl
  · exact allFrozenStep_keeps F f1 f2 f3 f4 k

theorem handFreezeRecord_queue (k : Core) (r) : ∃ rest, (k.handFreezeRecord r).writer.queue = k.writer.queue ++ rest := by
  unfold Core.handFreezeRecord; split
  · exact ⟨[_], rfl⟩
  · exact ⟨[], by simp⟩

theorem allFrozenStep_run (k : Core) : k.allFrozenStep.unit.run = .frozen := by
  show (Core.handFreezeRecord _ _).unit.run = .frozen
  rw [handFreezeRecord_keeps (fun k => k.unit.run) (fun _ _ => rfl)]
  rfl

theorem allFrozenStep_pending (k : Core) : k.allFrozenStep.unit.pending = k.unit.pending ||| 16 := by
  show (Core.handFreezeRecord _ _).unit.pending ||| 16 = _
  rw [handFreezeRecord_keeps (fun k => k.unit.pending) (fun _ _ => rfl)]
  show (ite _ _ _ : Core).unit.pending ||| 16 = _
  split <;> rfl

theorem allFrozenStep_queue (k : Core) : ∃ rest, k.allFrozenStep.writer.queue = k.writer.queue ++ rest := by
  have : ∃ rest, k.allFrozenStep.writer.queue = (if k.guard.pFreeze.state = .counting then k.freezePressure .withAcoustic else k).writer.queue ++ rest :=
    handFreezeRecord_queue _ _
  obtain ⟨rest, h⟩ := this
  refine ⟨rest, h.trans ?_⟩
  split <;> rfl

end Sys2Proof.Machine
end

