-- ==== Sys2Proof/Laws/Aside.lean ====
section
/-! SUPPORT. What handing a record over and closing a hit or an event leave as they are. `Core.aside` is the state without the
record queue, mode and loss counters, the pending causes and the dirty mark: handing a record over changes nothing else.
`Core.besideHolds` is without the hold table too, and `Core.besideEvents` without the grouper: closing a hit and closing an
event change nothing else. -/

namespace Sys2Proof.Machine

/-- Reading a field of two equal views. -/
theorem via {α β : Type} (F : α → β) {a b : α} (h : a = b) {x y : β} (hx : F a = x) (hy : F b = y) : x = y := by
  rw [← hx, ← hy, h]

/-! ### The views -/

def Writer.aside (w : Writer) : Writer := { w with queue := [], mode := .placing, loss := Loss.zero }
def CommandUnit.aside (u : CommandUnit) : CommandUnit := { u with pending := 0, dirty := false }

def Core.aside (k : Core) : Core := { k with writer := k.writer.aside, unit := k.unit.aside }

def Guard.withoutHolds (g : Guard) : Guard := { g with holds := Vector.replicate 64 none }
def Core.besideHolds (k : Core) : Core := { k.aside with guard := k.guard.withoutHolds }

def Grouper.withoutEvents (g : Grouper) : Grouper := Grouper.reset g.path
def Core.besideEvents (k : Core) : Core := { k.aside with group := k.group.withoutEvents }

def Hits.withoutStates (h : Hits) : Hits :=
  { h with det := tabulate fun c => { look h.det c with state := .idle, threshold := 0, prev := 0 } }

/-- Without the hold table and the detectors but their noise estimates. -/
def Core.besideDetectors (k : Core) : Core := { k.besideHolds with hits := k.hits.withoutStates }

/-! ### Handing records over -/

@[simp] theorem Core.setWriter_aside (k : Core) (w : Writer) (h : w.aside = k.writer.aside) :
    (k.setWriter w).aside = k.aside := by simp [Core.aside, h]
@[simp] theorem Core.setUnit_aside (k : Core) (u : CommandUnit) (h : u.aside = k.unit.aside) :
    (k.setUnit u).aside = k.aside := by simp [Core.aside, h]
@[simp] theorem Core.setQueue_aside (k : Core) (q : List Record) : (k.setQueue q).aside = k.aside := rfl
@[simp] theorem Core.markDirty_aside (k : Core) : k.markDirty.aside = k.aside := rfl
@[simp] theorem Core.raise_aside (k : Core) (c : Cause) : (k.raise c).aside = k.aside := rfl
@[simp] theorem Core.discard_aside (k : Core) (r : Record) (b : Bool) : (k.discard r b).aside = k.aside := rfl
@[simp] theorem Core.setMode_aside (k : Core) (m : WriterMode) : (k.setMode m).aside = k.aside := rfl
@[simp] theorem Core.mergeOrAppend_aside (k : Core) (f) (r : Record) : (k.mergeOrAppend f r).aside = k.aside := rfl
@[simp] theorem Core.handLoss_aside (k : Core) (r : LossReason) : (k.handLoss r).aside = k.aside := rfl
@[simp] theorem Core.handLossIfCounted_aside (k : Core) (r : LossReason) : (k.handLossIfCounted r).aside = k.aside := by
  unfold Core.handLossIfCounted; split <;> rfl
@[simp] theorem Core.exitTest_aside (k : Core) : k.exitTest.aside = k.aside := by
  unfold Core.exitTest; split <;> simp
@[simp] theorem Core.shedHeads_aside (k : Core) : k.shedHeads.aside = k.aside := by
  unfold Core.shedHeads
  split
  · dsimp only; rw [Core.setQueue_aside]; exact foldl_keeps Core.aside (fun k r => k.discard_aside r false) _ k
  · rfl
@[simp] theorem Core.enterShedding_aside (k : Core) : k.enterShedding.aside = k.aside := by simp [Core.enterShedding]
@[simp] theorem Core.handSheddable_aside (k : Core) (r : Record) : (k.handSheddable r).aside = k.aside := by
  unfold Core.handSheddable; split
  · simp
  · split <;> simp

/-! ### Closing a hit -/

theorem Core.besideHolds_of_aside {k k' : Core} (h : k'.aside = k.aside) : k'.besideHolds = k.besideHolds := by
  have hg : k'.guard = k.guard := (congrArg Core.guard h : k'.aside.guard = k.aside.guard)
  unfold Core.besideHolds; rw [h, hg]

@[simp] theorem Core.setHold_besideHolds (k : Core) (h : Fin 64) (x : Option Hold) :
    (k.setHold h x).besideHolds = k.besideHolds := rfl
@[simp] theorem Core.closeHold_besideHolds (k : Core) (h : Fin 64) : (k.closeHold h).1.besideHolds = k.besideHolds := by
  unfold Core.closeHold; split
  · rfl
  · split <;> rfl
@[simp] theorem Core.reportClosure_besideHolds (k : Core) (h : HitHold) :
    (k.reportClosure h).1.besideHolds = k.besideHolds := by
  unfold Core.reportClosure; split <;> simp
@[simp] theorem Core.closeHit_besideHolds (k : Core) (h : HitContext) (r : HitEnd) (t : Nat) :
    (k.closeHit h r t).besideHolds = k.besideHolds := by
  unfold Core.closeHit
  dsimp only
  rw [Core.besideHolds_of_aside (Core.handSheddable_aside _ _), Core.reportClosure_besideHolds]
@[simp] theorem Core.closeIfOpen_besideHolds (k : Core) (c : Chan) (r : HitEnd) :
    (k.closeIfOpen c r).besideHolds = k.besideHolds := by
  unfold Core.closeIfOpen; split <;> simp

theorem Core.closeHit_hits (k : Core) (h : HitContext) (r : HitEnd) (t : Nat) : (k.closeHit h r t).hits = k.hits :=
  (congrArg Core.hits (k.closeHit_besideHolds h r t) : (k.closeHit h r t).besideHolds.hits = k.besideHolds.hits)
theorem Core.closeIfOpen_hits (k : Core) (c : Chan) (r : HitEnd) : (k.closeIfOpen c r).hits = k.hits :=
  (congrArg Core.hits (k.closeIfOpen_besideHolds c r) : (k.closeIfOpen c r).besideHolds.hits = k.besideHolds.hits)

theorem Core.besideDetectors_of_holds {k k' : Core} (h : k'.besideHolds = k.besideHolds) :
    k'.besideDetectors = k.besideDetectors := by
  have hg : k'.hits = k.hits := (congrArg Core.hits h : k'.besideHolds.hits = k.besideHolds.hits)
  unfold Core.besideDetectors; rw [h, hg]

theorem Core.setDetector_besideDetectors (k : Core) (c : Chan) (d : Detector) (h : d.noise = (k.detector c).noise) :
    (k.setDetector c d).besideDetectors = k.besideDetectors := by
  have : (Hits.withoutStates { k.hits with det := put k.hits.det c d }) = k.hits.withoutStates := by
    simp only [Hits.withoutStates]
    congr 2
    funext j
    rw [look_put]
    split
    · subst_vars; rw [h]; rfl
    · rfl
  show ({ k.besideHolds with hits := Hits.withoutStates { k.hits with det := put k.hits.det c d } } : Core) = _
  rw [this]; rfl

@[simp] theorem Core.setDetectorState_besideDetectors (k : Core) (c : Chan) (st : DetectorState) :
    (k.setDetectorState c st).besideDetectors = k.besideDetectors := Core.setDetector_besideDetectors _ _ _ rfl
@[simp] theorem Core.computeThreshold_besideDetectors (k : Core) (c : Chan) :
    (k.computeThreshold c).besideDetectors = k.besideDetectors := Core.setDetector_besideDetectors _ _ _ rfl
@[simp] theorem Core.enterArmed_besideDetectors (k : Core) (c : Chan) (e : Option Nat) :
    (k.enterArmed c e).besideDetectors = k.besideDetectors := by simp [Core.enterArmed]
@[simp] theorem Core.enterCheck_besideDetectors (k : Core) (c : Chan) :
    (k.enterCheck c).besideDetectors = k.besideDetectors := by simp [Core.enterCheck]
@[simp] theorem Core.setPrev_besideDetectors (k : Core) (c : Chan) (m : Nat) :
    (k.setPrev c m).besideDetectors = k.besideDetectors := Core.setDetector_besideDetectors _ _ _ rfl
@[simp] theorem Core.closeIfOpen_besideDetectors (k : Core) (c : Chan) (r : HitEnd) :
    (k.closeIfOpen c r).besideDetectors = k.besideDetectors :=
  Core.besideDetectors_of_holds (k.closeIfOpen_besideHolds c r)
@[simp] theorem Core.closeHit_besideDetectors (k : Core) (h : HitContext) (r : HitEnd) (t : Nat) :
    (k.closeHit h r t).besideDetectors = k.besideDetectors :=
  Core.besideDetectors_of_holds (k.closeHit_besideHolds h r t)
@[simp] theorem Core.withdraw_besideDetectors (k : Core) (c : Chan) :
    (k.withdraw c).besideDetectors = k.besideDetectors := by simp [Core.withdraw]
@[simp] theorem Core.enterCheckAtStart_besideDetectors (k : Core) (c : Chan) :
    (k.enterCheckAtStart c).besideDetectors = k.besideDetectors := by
  unfold Core.enterCheckAtStart; split
  · split <;> simp
  · rfl
@[simp] theorem Core.leaveCheck_besideDetectors (k : Core) (c : Chan) :
    (k.leaveCheck c).besideDetectors = k.besideDetectors := by unfold Core.leaveCheck; split <;> simp

/-! ### Detectors, one at a time -/

@[simp] theorem Core.setDetectorState_detector (k : Core) (c j : Chan) (st : DetectorState) :
    (k.setDetectorState c st).detector j =
      if c = j then { k.detector j with state := st } else k.detector j := by
  simp only [Core.setDetectorState, Core.detector, Core.setDetector, Core.setHits, look_put]
  split
  · subst_vars; rfl
  · rfl
@[simp] theorem Core.setPrev_detector (k : Core) (c j : Chan) (m : Nat) :
    (k.setPrev c m).detector j = if c = j then { k.detector j with prev := m } else k.detector j := by
  simp only [Core.setPrev, Core.detector, Core.setDetector, Core.setHits, look_put]
  split
  · subst_vars; rfl
  · rfl
@[simp] theorem Core.computeThreshold_detector (k : Core) (c j : Chan) :
    (k.computeThreshold c).detector j =
      if c = j then { k.detector j with threshold := thresholdFor (k.settingsOf j) (k.detector j).noise }
      else k.detector j := by
  simp only [Core.computeThreshold, Core.detector, Core.setDetector, Core.setHits, look_put]
  split
  · subst_vars; rfl
  · rfl
theorem Core.settingsOf_congr {k k' : Core} (h : k'.unit.settings = k.unit.settings) (c : Chan) :
    k'.settingsOf c = k.settingsOf c := by unfold Core.settingsOf; rw [h]
theorem Core.enabled_congr {k k' : Core} (h : k'.unit.settings = k.unit.settings) (c : Chan) :
    k'.enabled c = k.enabled c := by unfold Core.enabled; rw [Core.settingsOf_congr h]
@[simp] theorem Core.setDetectorState_settingsOf (k : Core) (c j : Chan) (st : DetectorState) :
    (k.setDetectorState c st).settingsOf j = k.settingsOf j := rfl
@[simp] theorem Core.enterArmed_detector (k : Core) (c j : Chan) (e : Option Nat) :
    (k.enterArmed c e).detector j =
      if c = j then
        { k.detector j with state := .armed e, threshold := thresholdFor (k.settingsOf j) (k.detector j).noise }
      else k.detector j := by
  simp only [Core.enterArmed, Core.computeThreshold_detector, Core.setDetectorState_detector,
    Core.setDetectorState_settingsOf]
  split <;> rfl
@[simp] theorem Core.enterCheck_detector (k : Core) (c j : Chan) :
    (k.enterCheck c).detector j =
      if c = j then
        { k.detector j with state := .check CheckContext.empty,
                            threshold := thresholdFor (k.settingsOf j) (k.detector j).noise }
      else k.detector j := by
  simp only [Core.enterCheck, Core.computeThreshold_detector, Core.setDetectorState_detector,
    Core.setDetectorState_settingsOf]
  split <;> rfl
theorem Core.closeHit_detector (k : Core) (h : HitContext) (r : HitEnd) (t : Nat) (j : Chan) :
    (k.closeHit h r t).detector j = k.detector j := by simp only [Core.detector, Core.closeHit_hits]
theorem Core.closeIfOpen_detector (k : Core) (c : Chan) (r : HitEnd) (j : Chan) :
    (k.closeIfOpen c r).detector j = k.detector j := by simp only [Core.detector, Core.closeIfOpen_hits]
@[simp] theorem Core.withdraw_detector (k : Core) (c j : Chan) :
    (k.withdraw c).detector j = if c = j then { k.detector j with state := .idle } else k.detector j := by
  simp only [Core.withdraw, Core.setDetectorState_detector, Core.closeIfOpen_detector]

@[simp] theorem Core.enterCheckAtStart_detector (k : Core) (c j : Chan) :
    (k.enterCheckAtStart c).detector j =
      if c = j ∧ k.enabled c = true ∧ (k.detector c).state ≠ .idle then
        { k.detector j with state := .check CheckContext.empty, threshold := thresholdFor (k.settingsOf j) (k.detector j).noise }
      else k.detector j := by
  unfold Core.enterCheckAtStart
  have hs : ∀ r, (k.closeIfOpen c r).settingsOf j = k.settingsOf j := fun r =>
    Core.settingsOf_congr (via (fun k : Core => k.unit.settings) (k.closeIfOpen_besideHolds c r) rfl rfl) j
  split
  · rename_i he
    split <;> rename_i hd <;> simp only [Core.enterCheck_detector, Core.closeIfOpen_detector, hs, hd, he] <;> simp
  · rename_i he; simp [he]

/-! ### Closing events -/

theorem Core.besideEvents_of_aside {k k' : Core} (h : k'.aside = k.aside) : k'.besideEvents = k.besideEvents := by
  have hg : k'.group = k.group := (congrArg Core.group h : k'.aside.group = k.aside.group)
  unfold Core.besideEvents; rw [h, hg]

theorem Core.setGroup_besideEvents (k : Core) (g : Grouper) (h : g.path = k.group.path) :
    (k.setGroup g).besideEvents = k.besideEvents := by
  show ({ k.aside with group := Grouper.reset g.path } : Core) = _
  rw [h]; rfl

@[simp] theorem Core.setEvent_besideEvents (k : Core) (i : Fin 8) (e) : (k.setEvent i e).besideEvents = k.besideEvents := rfl
@[simp] theorem Core.closeEvent_besideEvents (k : Core) (i : Fin 8) (r : EventEnd) :
    (k.closeEvent i r).besideEvents = k.besideEvents := by
  unfold Core.closeEvent; split
  · rfl
  · dsimp only; split
    · rw [Core.besideEvents_of_aside (Core.handSheddable_aside _ _)]; rfl
    · rfl
@[simp] theorem Core.closeEvents_besideEvents (k : Core) (p) (r : EventEnd) :
    (k.closeEvents p r).besideEvents = k.besideEvents := by
  unfold Core.closeEvents
  exact foldl_keeps (f := fun k (ie : Fin 8 × Event) => k.closeEvent ie.1 r) Core.besideEvents
    (fun k ie => k.closeEvent_besideEvents ie.1 r) _ k
@[simp] theorem Core.closeBelow_besideEvents (k : Core) (t : Nat) : (k.closeBelow t).besideEvents = k.besideEvents :=
  Core.closeEvents_besideEvents _ _ _
@[simp] theorem Core.forceClosure_besideEvents (k : Core) : k.forceClosure.besideEvents = k.besideEvents := by
  unfold Core.forceClosure; split
  · rfl
  · rw [Core.closeEvent_besideEvents]; rfl
@[simp] theorem Core.openEvent_besideEvents (k : Core) (a : Arrival) : (k.openEvent a).besideEvents = k.besideEvents := by
  unfold Core.openEvent
  have h : ∀ k : Core, (match k.group.freeEvent with
      | none => k
      | some i => ((k.setEvent i (some (k.newEvent a))).setGroup
          { (k.setEvent i (some (k.newEvent a))).group with
            nextEvent := (k.setEvent i (some (k.newEvent a))).group.nextEvent + 1 })).besideEvents = k.besideEvents := by
    intro k; split <;> rfl
  refine (h _).trans ?_
  split <;> simp
@[simp] theorem Core.joinOrOpen_besideEvents (k : Core) (a : Arrival) : (k.joinOrOpen a).besideEvents = k.besideEvents := by
  unfold Core.joinOrOpen; split
  · simp
  · rfl
@[simp] theorem Core.takeArrival_besideEvents (k : Core) (a : Arrival) :
    (k.takeArrival a).besideEvents = k.besideEvents := by
  unfold Core.takeArrival; dsimp only; split
  · exact (Core.setGroup_besideEvents _ _ rfl).trans (by simp)
  · exact (Core.joinOrOpen_besideEvents _ _).trans ((Core.setGroup_besideEvents _ _ rfl).trans (by simp))
@[simp] theorem Core.takeArrivals_besideEvents (k : Core) : k.takeArrivals.besideEvents = k.besideEvents := by
  unfold Core.takeArrivals; dsimp only
  exact (Core.closeBelow_besideEvents _ _).trans
    ((foldl_keeps Core.besideEvents Core.takeArrival_besideEvents _ _).trans (Core.setGroup_besideEvents _ _ rfl))
@[simp] theorem Core.offerArrival_besideEvents (k : Core) (a : Arrival) :
    (k.offerArrival a).1.besideEvents = k.besideEvents := by
  unfold Core.offerArrival; split
  · simp
  · split <;> exact Core.setGroup_besideEvents _ _ rfl
@[simp] theorem Core.flushGroups_besideEvents (k : Core) : k.flushGroups.besideEvents = k.besideEvents := by
  unfold Core.flushGroups; dsimp only
  exact (Core.closeEvents_besideEvents _ _ _).trans
    ((foldl_keeps Core.besideEvents Core.takeArrival_besideEvents _ _).trans (Core.setGroup_besideEvents _ _ rfl))

end Sys2Proof.Machine
end

