-- ==== Sys2Proof/Laws/Link.lean ====
section
/-! SUPPORT. What arrival, acceptance, return and presentation do, said once each. -/

namespace Sys2Proof.Machine

/-! ### Presentation touches the arbiter alone -/

theorem State.present_eq (s : State) : ∃ a, s.present = s.setArb a := by
  unfold State.present
  split
  · exact ⟨s.arb, rfl⟩
  · exact ⟨_, rfl⟩

@[simp] theorem State.present_core (s : State) : s.present.core = s.core := by obtain ⟨a, h⟩ := s.present_eq; simp [h]
@[simp] theorem State.present_acq (s : State) : s.present.acq = s.acq := by obtain ⟨a, h⟩ := s.present_eq; simp [h]
@[simp] theorem State.present_host (s : State) : s.present.host = s.host := by obtain ⟨a, h⟩ := s.present_eq; simp [h]
@[simp] theorem State.present_issued (s : State) : s.present.issued = s.issued := by
  obtain ⟨a, h⟩ := s.present_eq; simp [h]
@[simp] theorem State.present_pending (s : State) : s.present.pending = s.pending := by
  obtain ⟨a, h⟩ := s.present_eq; simp [h]
@[simp] theorem State.present_strap (s : State) : s.present.strap = s.strap := by obtain ⟨a, h⟩ := s.present_eq; simp [h]
@[simp] theorem State.present_timeRef (s : State) : s.present.timeRef = s.timeRef := by
  obtain ⟨a, h⟩ := s.present_eq; simp [h]
@[simp] theorem State.present_linkReset (s : State) : s.present.linkReset = s.linkReset := by
  obtain ⟨a, h⟩ := s.present_eq; simp [h]
@[simp] theorem State.present_port (s : State) (p : Port) : s.present.port p = s.port p := by
  cases p <;> simp [State.port]
@[simp] theorem State.present_lastGrant (s : State) : s.present.arb.lastGrant = s.arb.lastGrant := by
  have key : ∀ (a : Arbiter) (b : Bool), (a.settle b).lastGrant = a.lastGrant := by
    intro a b; unfold Arbiter.settle; split <;> rfl
  unfold State.present
  split
  · rfl
  · simp [key, Arbiter.pruneRound]

/-- What stands presented of an abandoned placement after a presentation; the record writer presents one write at a time. -/
theorem State.present_abandoned (s : State) (h : s.core.writer.halted = false) :
    s.present.arb.abandoned = s.arb.abandoned := by
  have key : ∀ (a : Arbiter) (b : Bool), (a.settle b).abandoned = a.abandoned := by
    intro a b; unfold Arbiter.settle; split <;> rfl
  unfold State.present
  split
  · rfl
  · simp [key, Arbiter.pruneRound, State.abandonedPresented, h]

theorem State.present_record (s : State) (h : s.linkReset = false) :
    s.present.arb.record = (s.core.recordPresents && s.arb.abandoned.isNone) := by
  have key : ∀ (a : Arbiter) (b : Bool), (a.settle b).record = a.record := by
    intro a b; unfold Arbiter.settle; split <;> rfl
  simp [State.present, h, key, Arbiter.pruneRound]

/-! ### An abandoned placement (R149) -/

@[simp] theorem State.abandonWrites_core (s : State) (k : Core) : (s.abandonWrites k).core = s.core := rfl
@[simp] theorem State.abandonWrites_acq (s : State) (k : Core) : (s.abandonWrites k).acq = s.acq := rfl
@[simp] theorem State.abandonWrites_host (s : State) (k : Core) : (s.abandonWrites k).host = s.host := rfl

/-- A write that stands presented when its placement is abandoned stays presented as it was. -/
theorem Arbiter.keepAbandoned_presented (a : Arbiter) (k : Core) (p : Placement) (h : a.record = true)
    (hp : k.writer.placement = some p) : (a.keepAbandoned k).abandoned = some (k.placementWrite p) := by
  simp [Arbiter.keepAbandoned, h, hp]

theorem Arbiter.keepAbandoned_idle (a : Arbiter) (k : Core) (h : a.record = false) : a.keepAbandoned k = a := by
  simp [Arbiter.keepAbandoned, h]

/-- After the abandoning every write of the record writer that is issued is ignored. -/
theorem State.abandonWrites_ignored (s : State) (k : Core) :
    ∀ x ∈ (s.abandonWrites k).issued, x.owner = .record → x.discarded = true := by
  intro x hx ho
  obtain ⟨i, _, rfl⟩ := List.mem_map.1 hx
  unfold Issued.discardRecord at ho ⊢
  split at ho <;> simp_all

/-! ### The decoder finds the control page -/

theorem State.pageBase_lt (s : State) : s.pageBase < 2 ^ 30 := by
  have := s.strap.isLt
  unfold State.pageBase
  omega

theorem State.pageAddr_toNat (s : State) (b : Nat) (h : b < 128) : (s.pageAddr b).toNat = s.pageBase + b := by
  have := s.pageBase_lt
  simp only [State.pageAddr, BitVec.toNat_ofNat]
  omega

theorem State.place_page (s : State) (b : Nat) (h : b < 128) : s.place (s.pageAddr b).toNat = .control b := by
  rw [s.pageAddr_toNat b h]
  simp [State.place, h]

/-! ### Return of complete entries -/

theorem State.returnReady_of_settled (s : State) (p : Port) (h : (s.port p).settled = true) : s.returnReady p = s := by
  unfold State.returnReady
  cases hq : (s.port p).accepted with
  | nil => rfl
  | cons e es =>
    simp only [PortState.settled, hq, Accepted.isComplete] at h
    simp only [List.length_cons, State.returnLoop, hq]
    split <;> simp_all

/-- A port left settled to which an entry joins: the entry returns at once only when it is complete and alone. -/
theorem State.returnReady_enqueue (s : State) (p : Port) (e : Accepted) (h : (s.port p).settled = true) :
    (s.enqueue p e).returnReady p =
      match (s.port p).accepted, e.cond with
      | [], .complete r => (s.enqueue p e).returnOne p e [] r
      | _, _ => s.enqueue p e := by
  cases hq : (s.port p).accepted with
  | nil =>
    cases hc : e.cond with
    | complete r =>
      simp only [State.returnReady, State.enqueue, State.port_setPort_self, hq, List.nil_append, List.length_singleton,
        State.returnLoop, hc]
    | waiting =>
      exact State.returnReady_of_settled _ _ (by simp [State.enqueue, PortState.settled, hq, Accepted.isComplete, hc])
    | issued =>
      exact State.returnReady_of_settled _ _ (by simp [State.enqueue, PortState.settled, hq, Accepted.isComplete, hc])
  | cons a as =>
    have : ((s.enqueue p e).port p).settled = true := by
      simpa [State.enqueue, PortState.settled, hq] using h
    simpa using State.returnReady_of_settled _ _ this

/-- A waiting entry that joins a settled port is not returned. -/
theorem State.returnReady_enqueue_waiting (s : State) (p : Port) (e : Accepted) (h : (s.port p).settled = true)
    (he : e.cond = .waiting) : (s.enqueue p e).returnReady p = s.enqueue p e := by
  rw [State.returnReady_enqueue s p e h, he]
  split <;> simp_all

@[simp] theorem State.enqueue_core (s : State) (p : Port) (e : Accepted) : (s.enqueue p e).core = s.core := by
  simp [State.enqueue]
@[simp] theorem State.enqueue_issued (s : State) (p : Port) (e : Accepted) : (s.enqueue p e).issued = s.issued := by
  simp [State.enqueue]
@[simp] theorem State.enqueue_arb (s : State) (p : Port) (e : Accepted) : (s.enqueue p e).arb = s.arb := by
  simp [State.enqueue]

/-! ### Acceptance -/

/-- A request that arrives at a ready port is accepted at once. -/
theorem State.arrive_of_ready (s : State) (p : Port) (r : Request) (h : s.Ready p) :
    s.arrive p r = (s.acceptRequest p r).returnReady p := by
  obtain ⟨h1, h2, h3, _, h5⟩ := h
  obtain ⟨_, _, _, ⟨_, _, _⟩, ⟨_, _, _⟩, _, _, _, _⟩ := s
  cases p <;> simp only [State.port] at h1 h2 h3 h5 <;> subst h2 <;>
    simp_all [State.arrive, State.canAccept, State.acceptFront, State.setPort, State.port]

/-- A read that arrives at a ready port waits in its accepted queue; nothing else changes. -/
theorem State.arrive_read (s : State) (p : Port) (addr : BlockAddr) (len : Fin 8) (h : s.Ready p) :
    s.arrive p (.read addr len) = s.enqueue p
      { request := .read addr len, places := s.placesOf (.read addr len), startsFetch := false, cond := .waiting } := by
  rw [State.arrive_of_ready s p _ h]
  exact State.returnReady_enqueue_waiting _ _ _ h.settled rfl

/-- The port of a state after an acquisition write has been taken is as it was. -/
@[simp] theorem State.takeAcquisitionWrite_acq (s : State) (w : BlockWrite) : (s.takeAcquisitionWrite w).1.acq = s.acq := by
  unfold State.takeAcquisitionWrite; split <;> simp
@[simp] theorem State.takeAcquisitionWrite_host (s : State) (w : BlockWrite) :
    (s.takeAcquisitionWrite w).1.host = s.host := by
  unfold State.takeAcquisitionWrite; split <;> simp

/-- The entry that a write becomes. -/
def writeEntry (s : State) (p : Port) (w : BlockWrite) : Accepted :=
  { request := .write w, places := [s.place w.addr.toNat], startsFetch := s.writeBeginsApply p w,
    cond := writeCondition (s.takeWrite p w).2 }

/-- A write that arrives at a ready port. -/
theorem State.arrive_write (s : State) (p : Port) (w : BlockWrite) (h : s.Ready p) :
    s.arrive p (.write w) = ((s.takeWrite p w).1.enqueue p (writeEntry s p w)).returnReady p :=
  State.arrive_of_ready s p _ h

/-! ### Command writes -/

@[simp] theorem State.clear_core (s : State) (b : Block) : (s.clear b).core = s.core.clear b := rfl
@[simp] theorem State.takeCommand_core (s : State) (b : Block) : (s.takeCommand b).core = s.core.takeCommand b := by
  unfold State.takeCommand
  split
  · rename_i h; simp [Core.takeCommand, h]
  · rfl

theorem State.takeCommand_settled (s : State) (b : Block) (h : s.host.settled = true) :
    (s.takeCommand b).host.settled = true := by
  unfold State.takeCommand
  split
  · unfold PortState.settled at *
    simp only [State.clear, PortState.forgetFetch]
    cases hq : s.host.accepted <;> simp_all [Accepted.isComplete]
  · simpa using h

/-- The write of a host-port write to a page block. -/
def pageWrite (s : State) (b : Nat) (w : PageWrite) : BlockWrite := { addr := s.pageAddr b, data := w.data, mask := w.mask }

/-- A host-port write to block 0 that arrives at a ready port is taken as a command and waits in the queue. -/
theorem State.arrive_command (s : State) (w : PageWrite) (h : s.Ready .host) :
    s.arrive .host (s.pageRequest 0 w) =
      (s.takeCommand (pageData w)).enqueue .host (s.pageEntry 0 w (s.core.beginsApply (pageData w))) := by
  have hp := s.place_page 0 (by decide)
  have hr : s.core.reportPageWrite 0 = s.core := by
    unfold Core.reportPageWrite
    split
    · rw [if_neg (by omega)]
    · rfl
    · rfl
  rw [State.pageRequest, State.arrive_write s _ _ h]
  have ht : (s.takeWrite .host (pageWrite s 0 w)) = (s.takeCommand (pageData w), false) := by
    simp only [State.takeWrite, State.takeHostWrite, pageWrite, hp, State.takePageWrite, hr, pageData]
    rfl
  have he : writeEntry s .host (pageWrite s 0 w) = s.pageEntry 0 w (s.core.beginsApply (pageData w)) := by
    have hw : (pageWrite s 0 w).addr = s.pageAddr 0 := rfl
    simp only [writeEntry, State.pageEntry, ht, hw, hp, State.writeBeginsApply, writeCondition, pageData]
    rfl
  show (State.enqueue (s.takeWrite .host (pageWrite s 0 w)).1 .host _).returnReady .host = _
  rw [ht]
  rw [show writeEntry s .host { addr := s.pageAddr 0, data := w.data, mask := w.mask } = _ from he]
  exact State.returnReady_enqueue_waiting _ _ _ (State.takeCommand_settled s _ h.settled) rfl

/-- A host-port write to block 1 that arrives at a ready port acknowledges causes and waits in the queue. -/
theorem State.arrive_acknowledge (s : State) (w : PageWrite) (h : s.Ready .host) :
    s.arrive .host (s.pageRequest 1 w) =
      (s.setCore (s.core.acknowledge (byteAt (pageData w) 0))).enqueue .host (s.pageEntry 1 w false) := by
  have hp := s.place_page 1 (by decide)
  have hr : s.core.reportPageWrite 1 = s.core := by
    unfold Core.reportPageWrite
    split
    · rw [if_neg (by omega)]
    · rfl
    · rfl
  rw [State.pageRequest, State.arrive_write s _ _ h]
  have ht : (s.takeWrite .host (pageWrite s 1 w)) = (s.setCore (s.core.acknowledge (byteAt (pageData w) 0)), false) := by
    simp only [State.takeWrite, State.takeHostWrite, pageWrite, hp, State.takePageWrite, hr, pageData]
    rfl
  have he : writeEntry s .host (pageWrite s 1 w) = s.pageEntry 1 w false := by
    have hw : (pageWrite s 1 w).addr = s.pageAddr 1 := rfl
    simp only [writeEntry, State.pageEntry, ht, hw, hp, State.writeBeginsApply, writeCondition]
    rfl
  show (State.enqueue (s.takeWrite .host (pageWrite s 1 w)).1 .host _).returnReady .host = _
  rw [ht]
  rw [show writeEntry s .host { addr := s.pageAddr 1, data := w.data, mask := w.mask } = _ from he]
  exact State.returnReady_enqueue_waiting _ _ _ (by simpa using h.settled) rfl

/-- A command in READY that is not CLEAR. -/
theorem Core.takeCommand_ready (k : Core) (b : Block) (hc : isClear b = false) (hb : k.unit.busy = false) :
    k.takeCommand b = k.takeReady b := by
  simp [Core.takeCommand, hc, hb]

/-- A command other than CLEAR leaves the link as it is. -/
theorem State.takeCommand_of_not_clear (s : State) (b : Block) (hc : isClear b = false) :
    s.takeCommand b = s.setCore (s.core.takeCommand b) := by
  simp [State.takeCommand, hc]

/-! ### Return on the acquisition port acts on nothing -/

@[simp] theorem State.returnOne_acquisition_core (s : State) (e : Accepted) (rest : List Accepted) (r : Returned) :
    (s.returnOne .acquisition e rest r).core = s.core := by
  simp [State.returnOne, Core.entryReturned]

theorem State.returnLoop_acquisition_core (n : Nat) (s : State) : (State.returnLoop .acquisition n s).core = s.core := by
  induction n generalizing s with
  | zero => rfl
  | succ n ih =>
    unfold State.returnLoop
    split
    · rfl
    · split
      · rw [ih]; simp
      · rfl
      · rfl

@[simp] theorem State.returnReady_acquisition_core (s : State) : (s.returnReady .acquisition).core = s.core :=
  State.returnLoop_acquisition_core _ s

/-- An acquisition write that arrives at a ready port: what the blocks behind the link are then. -/
theorem State.arrive_acquisition_core (s : State) (w : BlockWrite) (h : s.Ready .acquisition) :
    (s.arrive .acquisition (.write w)).core = (s.takeAcquisitionWrite w).1.core := by
  rw [State.arrive_write s _ _ h]
  simp [State.takeWrite]

end Sys2Proof.Machine
end

