-- ==== Sys2Proof/Laws/Commands.lean ====
section
/-! SUPPORT. What a command write at a ready host port comes to: the link's part once for every command, and the command
unit's part. -/

namespace Sys2Proof.Machine

/-- Behind the link, a command write is the command taken. -/
theorem State.arrivePage_core (s : State) (w : PageWrite) (h : s.Ready .host) :
    (s.arrivePage 0 w).core = s.core.takeCommand (pageData w) := by
  simp [State.arrivePage, State.arrive_command s w h]

/-- On the link, a command write other than CLEAR is accepted and waits. -/
theorem State.arrivePage_taken (s : State) (w : PageWrite) (h : s.Ready .host) (hc : isClear (pageData w) = false) :
    s.PageTaken (s.arrivePage 0 w) 0 w (s.core.beginsApply (pageData w)) := by
  simp only [State.arrivePage, State.arrive_command s w h, State.takeCommand_of_not_clear s _ hc]
  refine ⟨⟨?_, ?_, ?_, ?_, ?_⟩, ?_, ?_, ?_⟩ <;> simp [State.enqueue, State.setPort, State.port]

/-- A command of another kind is not CLEAR. -/
theorem isClear_false {b : Block} {k} (h : commandKind (commandCode b) = k) (hk : k ≠ .clear) : isClear b = false := by
  simp [isClear, h, hk]

/-- A command write other than CLEAR at a ready port, from what the command unit makes of it. -/
theorem command_done {s : State} {w : PageWrite} {i : Instr} {starts : Bool} {k : Core} (h : s.Ready .host)
    (hi : exec i s = .next (s.arrivePage 0 w)) (hc : isClear (pageData w) = false)
    (hs : s.core.beginsApply (pageData w) = starts) (hP : s.core.takeCommand (pageData w) = k) :
    ∃ t, exec i s = .next t ∧ s.PageTaken t 0 w starts ∧ t.core = k :=
  ⟨_, hi, hs ▸ State.arrivePage_taken s w h hc, hP ▸ State.arrivePage_core s w h⟩

/-- Every command row arrives as a write to block 0. -/
theorem exec_commandsOf {w : PageWrite} {i : Instr} (h : i ∈ commandsOf w) (s : State) : exec i s = .next (s.arrivePage 0 w) := by
  simp only [commandsOf, List.mem_cons, List.not_mem_nil, or_false] at h
  rcases h with h | h | h | h | h | h | h | h | h | h | h | h <;> subst h <;> rfl

/-- In READY no command runs and no answer is due. -/
theorem busy_due {u : CommandUnit} (h : u.busy = false) : u.running = none ∧ u.due = [] := by
  simpa [CommandUnit.busy] using h

/-- An answer formed with none due. -/
theorem answer_eq {k : Core} {b r d} (hb : k.unit.due = []) : k.answer b r d = { k with unit := { k.unit with
        due := [{ tag := commandTag b, code := commandCode b, result := some r, detail := d }], dirty := true } } := by
  simp [Core.answer, Core.formAnswer, answerTo, Core.setUnit, hb]

/-- In READY a command other than CLEAR is taken. -/
theorem ready_core {s : State} {w : PageWrite} {k} (hk : commandKind (commandCode (pageData w)) = k) (h1 : k ≠ .clear)
    (hb : s.core.unit.busy = false) : s.core.takeCommand (pageData w) = s.core.takeReady (pageData w) :=
  Core.takeCommand_ready _ _ (isClear_false hk h1) hb

/-- A command write in READY, other than CLEAR and APPLY. -/
theorem command_run {s : State} {w : PageWrite} {i : Instr} {k} (hr : s.Ready .host) (hb : s.core.unit.busy = false)
    (hk : commandKind (commandCode (pageData w)) = k) (h1 : k ≠ .clear) (h2 : k ≠ .apply)
    (hi : exec i s = .next (s.arrivePage 0 w)) :
    ∃ t, exec i s = .next t ∧ s.PageTaken t 0 w false ∧ t.core = s.core.takeReady (pageData w) := by
  refine command_done hr hi (isClear_false hk h1) ?_ (ready_core hk h1 hb)
  simpa [Core.beginsApply, hb, hk] using h2

end Sys2Proof.Machine
end

