-- ==== Sys2Proof/Laws/Events.lean ====
section
/-! SUPPORT. The event table and the arrival list after events close and arrivals are taken. -/

namespace Sys2Proof.Machine

theorem insertEvent_mem (key) (a x : Fin 8 × Event) (l) : x ∈ insertEvent key a l ↔ x = a ∨ x ∈ l := by
  induction l with
  | nil => simp [insertEvent]
  | cons b l ih =>
    unfold insertEvent; split
    · simp
    · simp only [List.mem_cons, ih]; tauto

theorem sortEvents_mem (key) (l : List (Fin 8 × Event)) (x) : x ∈ sortEvents key l ↔ x ∈ l := by
  unfold sortEvents
  induction l with
  | nil => simp
  | cons b l ih => rw [List.foldr_cons, insertEvent_mem, ih, List.mem_cons]

theorem openEvents_mem (g : Grouper) (i : Fin 8) (e : Event) : (i, e) ∈ g.openEvents ↔ look g.events i = some e := by
  simp only [Grouper.openEvents, List.mem_filterMap, allEvents, Option.map_eq_some_iff]
  constructor
  · rintro ⟨j, -, e', h, h2⟩; cases h2; exact h
  · intro h; exact ⟨i, List.mem_finRange i, e, h, rfl⟩

theorem closeEvent_events (k : Core) (i j : Fin 8) (r) :
    look (k.closeEvent i r).group.events j = if i = j then none else look k.group.events j := by
  unfold Core.closeEvent
  split
  · rename_i h; split
    · subst_vars; exact h
    · rfl
  · dsimp only
    have : look (k.setEvent i none).group.events j = if i = j then none else look k.group.events j := by
      simp [Core.setEvent, look_put]
    split
    · have h2 : ∀ x, ((k.setEvent i none).handSheddable x).group = (k.setEvent i none).group :=
        fun x => via Core.group (Core.handSheddable_aside (k.setEvent i none) x) rfl rfl
      rw [h2, this]
    · exact this

theorem closeEvents_events (k : Core) (p r) (j : Fin 8) :
    look (k.closeEvents p r).group.events j =
      (look k.group.events j).bind fun e => if p e then none else some e := by
  classical
  unfold Core.closeEvents
  have key : ∀ (l : List (Fin 8 × Event)) (k : Core), look (l.foldl (fun k ie => k.closeEvent ie.1 r) k).group.events j =
      if (∃ e, (j, e) ∈ l) then none else look k.group.events j := by
    intro l; induction l with
    | nil => intro k; simp
    | cons x l ih =>
      intro k
      rw [List.foldl_cons, ih, closeEvent_events]
      by_cases h1 : ∃ e, (j, e) ∈ l
      · have h2 : ∃ e, (j, e) ∈ x :: l := by obtain ⟨e, h⟩ := h1; exact ⟨e, List.mem_cons_of_mem _ h⟩
        rw [if_pos h1, if_pos h2]
      · rw [if_neg h1]
        by_cases h3 : x.1 = j
        · rw [if_pos h3, if_pos ⟨x.2, by subst h3; simp⟩]
        · rw [if_neg h3, if_neg]
          rintro ⟨e, h⟩
          rcases List.mem_cons.1 h with h | h
          · subst h; exact h3 rfl
          · exact h1 ⟨e, h⟩
  rw [key]
  simp only [sortEvents_mem, List.mem_filter, openEvents_mem]
  cases h : look k.group.events j with
  | none => simp
  | some e =>
    simp only [Option.some.injEq, Option.bind_some]
    by_cases hp : p e = true
    · rw [if_pos ⟨e, rfl, hp⟩, if_pos hp]
    · rw [if_neg hp, if_neg]; rintro ⟨e', rfl, h⟩; exact hp h

theorem flushGroups_events (k : Core) (j : Fin 8) : look k.flushGroups.group.events j = none := by
  unfold Core.flushGroups
  rw [closeEvents_events]; cases look _ j <;> rfl

theorem closeEvent_arrivals (k : Core) (i) (r) : (k.closeEvent i r).group.arrivals = k.group.arrivals := by
  unfold Core.closeEvent
  split
  · rfl
  · dsimp only; split
    · exact via (fun k : Core => k.group.arrivals) (Core.handSheddable_aside _ _) rfl rfl
    · rfl
theorem closeEvents_arrivals (k : Core) (p) (r) : (k.closeEvents p r).group.arrivals = k.group.arrivals := by
  unfold Core.closeEvents
  exact foldl_keeps (f := fun k (ie : Fin 8 × Event) => k.closeEvent ie.1 r) (fun k => k.group.arrivals) (fun k ie => closeEvent_arrivals k ie.1 r) _ k
theorem openEvent_arrivals (k : Core) (a) : (k.openEvent a).group.arrivals = k.group.arrivals := by
  unfold Core.openEvent
  have h : ∀ k : Core, (match k.group.freeEvent with
      | none => k
      | some i => ((k.setEvent i (some (k.newEvent a))).setGroup
          { (k.setEvent i (some (k.newEvent a))).group with
            nextEvent := (k.setEvent i (some (k.newEvent a))).group.nextEvent + 1 })).group.arrivals = k.group.arrivals := by
    intro k; split <;> rfl
  refine (h _).trans ?_
  split
  · unfold Core.forceClosure; split
    · rfl
    · rw [closeEvent_arrivals]; rfl
  · rfl
theorem takeArrival_arrivals (k : Core) (a) : (k.takeArrival a).group.arrivals = k.group.arrivals := by
  unfold Core.takeArrival; dsimp only; split
  · exact closeEvents_arrivals _ _ _
  · have : ∀ k : Core, (k.joinOrOpen a).group.arrivals = k.group.arrivals := by
      intro k; unfold Core.joinOrOpen; split
      · exact openEvent_arrivals _ _
      · rfl
    rw [this]; exact closeEvents_arrivals _ _ _

theorem flushGroups_arrivals (k : Core) : k.flushGroups.group.arrivals = [] := by
  unfold Core.flushGroups
  dsimp only
  rw [closeEvents_arrivals, foldl_keeps (fun k : Core => k.group.arrivals) takeArrival_arrivals]; rfl

theorem handLossIfCounted_counted (k : Core) (r) : (k.handLossIfCounted r).writer.loss.counted = false := by
  unfold Core.handLossIfCounted
  split
  · show Loss.zero.counted = false; decide +kernel
  · simp_all

end Sys2Proof.Machine
end

