-- ==== Sys2Proof/Laws/Hits.lean ====
section
/-! SUPPORT. What opening and closing a hit and handing its record over do, said once each. -/

namespace Sys2Proof.Machine

theorem linkKept_setCore (s : State) (k : Core) : s.LinkKept ((s.setCore k).present) := by
  refine ⟨⟨?_, ?_, ?_, ?_, ?_⟩, ?_, ?_, ?_⟩ <;> simp

theorem byte128 : ∀ x : Byte, (x ||| 128) &&& 128 = 128 := by decide +kernel

theorem pend_or (x y : Byte) (h : x &&& 128 = 128) : (x ||| y) &&& 128 = 128 := by
  revert x y; decide +kernel

theorem discard_writer_queue (k : Core) (r b) : (k.discard r b).writer.queue = k.writer.queue := rfl

theorem exitTest_mode (k : Core) (h : k.writer.mode = .shedding) : k.exitTest.writer.mode = .shedding ∨ k.exitTest.writer.mode = .placing := by
  unfold Core.exitTest; split
  · right; unfold Core.handLossIfCounted; split <;> rfl
  · left; exact h

theorem exitTest_pending (k : Core) : k.exitTest.unit.pending = k.unit.pending := by
  unfold Core.exitTest; split
  · unfold Core.handLossIfCounted; split <;> rfl
  · rfl

theorem shedHeads_mode (k : Core) : k.shedHeads.writer.mode = k.writer.mode := by
  unfold Core.shedHeads; split
  · exact foldl_keeps (f := fun k r => k.discard r false) (fun k : Core => k.writer.mode) (fun _ _ => rfl) _ k
  · rfl

theorem shedHeads_unit (k : Core) : k.shedHeads.unit = k.unit := by
  unfold Core.shedHeads; split
  · exact foldl_keeps (f := fun k r => k.discard r false) (fun k : Core => k.unit) (fun _ _ => rfl) _ k
  · rfl

theorem enterShedding_mode (k : Core) : k.enterShedding.writer.mode = .shedding ∨ k.enterShedding.writer.mode = .placing := by
  unfold Core.enterShedding; rw [shedHeads_mode]; exact exitTest_mode _ rfl

theorem enterShedding_pending (k : Core) : k.enterShedding.unit.pending = k.unit.pending ||| 128 := by
  unfold Core.enterShedding; rw [shedHeads_unit, exitTest_pending]; rfl

theorem handSheddable_handedOver (k : Core) (r : Record) : k.HandedOver (k.handSheddable r) r := by
  constructor
  · intro h1 h2
    have : ¬ 11 ≤ sheddableQueued k.writer.queue := by unfold sheddableQueued; omega
    simp [Core.handSheddable, h1, this, Core.setQueue, Core.setWriter]
  · intro h
    simp only [Core.handSheddable, h, if_true]
    refine ⟨rfl, h, ?_⟩
    show satInc _ = _
    unfold satInc
    have : ∀ l : Loss, (l.countKind r).onArrival = l.onArrival := by intro l; cases r <;> rfl
    simp only [this]; rfl
  · intro h1 h2
    have h2' : 11 ≤ sheddableQueued k.writer.queue := h2
    simp only [Core.handSheddable, h1, if_false, h2', if_true]
    refine ⟨⟨_, rfl, enterShedding_mode _⟩, ?_⟩
    rw [enterShedding_pending]
    exact byte128 _

theorem Core.HandedOver.congr {k k' k'' : Core} {r} (h : k.HandedOver k' r) (hw : k''.writer = k'.writer) (hp : k''.unit.pending = k'.unit.pending) :
    k.HandedOver k'' r := by
  obtain ⟨a, b, c⟩ := h
  constructor
  · rw [hw]; exact a
  · rw [hw]; exact b
  · rw [hw, hp]; exact c

theorem Core.HandedOver.congr_left {k k0 k' : Core} {r} (h : k0.HandedOver k' r) (hw : k0.writer = k.writer) : k.HandedOver k' r := by
  obtain ⟨a, b, c⟩ := h
  rw [hw] at a b c
  exact ⟨a, b, c⟩

theorem reportClosure_spec (k : Core) (hh : HitHold) : (k.reportClosure hh).2 = k.closingRange hh ∧ k.HoldClosed (k.reportClosure hh).1 hh ∧
    (k.reportClosure hh).1.writer = k.writer ∧ (k.reportClosure hh).1.unit = k.unit := by
  unfold Core.reportClosure Core.closingRange Core.HoldClosed
  cases hh with
  | noHold r => simp
  | held h =>
    simp only [Core.closeHold]
    split
    · rename_i hn
      refine ⟨by simp [hn], ?_, rfl, rfl⟩
      intro g; split
      · rename_i e; cases e; simp [hn]
      · rfl
    · rename_i x hx
      split
      · rename_i h0
        refine ⟨by simp [hx, h0], ?_, rfl, rfl⟩
        intro g
        simp only [Core.hold, Core.setHold, Core.setGuard, look_put]
        by_cases e : h = g
        · subst e; simp only [Core.hold] at hx; simp [hx, h0]
        · have : HitHold.held h ≠ .held g := fun e2 => e (by cases e2; rfl)
          simp [e]
      · rename_i h0
        refine ⟨by simp [hx], ?_, rfl, rfl⟩
        intro g
        simp only [Core.hold, Core.setHold, Core.setGuard, look_put]
        by_cases e : h = g
        · subst e; simp only [Core.hold] at hx; simp [hx, h0]
        · simp [e]

theorem closeHit_spec (k : Core) (h : HitContext) (reason t) :
    k.HandedOver (k.closeHit h reason t) (.hit (h.toRecord reason t (k.closingRange h.hold))) ∧
    k.HoldClosed (k.closeHit h reason t) h.hold ∧ (k.closeHit h reason t).besideHolds = k.besideHolds := by
  obtain ⟨a, b, c, d⟩ := reportClosure_spec k h.hold
  refine ⟨?_, ?_, by simp⟩
  · unfold Core.closeHit; dsimp only; rw [a]
    exact (handSheddable_handedOver _ _).congr_left c
  · intro g
    have : (k.closeHit h reason t).hold g = (k.reportClosure h.hold).1.hold g := by
      unfold Core.closeHit; dsimp only
      exact via (fun k : Core => k.hold g) (Core.handSheddable_aside _ _) rfl rfl
    rw [this]; exact b g

theorem Core.CloseKept.of {k k' : Core} {c : Chan} (h : k'.besideDetectors = k.besideDetectors) (ho : ∀ j, j ≠ c → k'.detector j = k.detector j) :
    k.CloseKept k' c := by
  constructor
  · exact via Core.streams h rfl rfl
  · exact via Core.group h rfl rfl
  · exact via Core.monitor h rfl rfl
  · exact via Core.check h rfl rfl
  · exact via (fun k : Core => k.hits.nextHit) h rfl rfl
  · exact ho
  · exact ⟨via (fun k : Core => k.guard.freeze) h rfl rfl, via (fun k : Core => k.guard.lastFwd) h rfl rfl⟩
  · exact ⟨via (fun k : Core => k.unit.settings) h rfl rfl, via (fun k : Core => k.unit.run) h rfl rfl⟩
  · exact ⟨via (fun k : Core => k.writer.produce) h rfl rfl, via (fun k : Core => k.writer.occupancy) h rfl rfl⟩

@[simp] theorem enterGuard_besideDetectors (k : Core) (c t g) : (k.enterGuard c t g).besideDetectors = k.besideDetectors := by
  unfold Core.enterGuard; split <;> simp

theorem enterGuard_writer (k : Core) (c t g) : (k.enterGuard c t g).writer = k.writer ∧ (k.enterGuard c t g).unit = k.unit ∧ (k.enterGuard c t g).guard = k.guard := by
  unfold Core.enterGuard; split <;> exact ⟨rfl, rfl, rfl⟩

theorem put_put {α : Type} {n : Nat} (v : Vector α n) (i : Fin n) (x y : α) : put (put v i x) i y = put v i y := by
  simp [put, Vector.set_set]

theorem setDetector_setDetector (k : Core) (c : Chan) (d d' : Detector) : (k.setDetector c d).setDetector c d' = k.withDetector c d' := by
  simp only [Core.setDetector, Core.setHits, Core.withDetector, put_put]

theorem setState_setPrev (k : Core) (c : Chan) (st) (m : Nat) :
    (k.setDetectorState c st).setPrev c m = k.withDetector c { k.detector c with prev := m, state := st } := by
  have : (k.setDetectorState c st).detector c = { k.detector c with state := st } := by simp
  unfold Core.setPrev
  rw [this]
  exact setDetector_setDetector _ _ _ _

theorem crosses_iff (th prev x) : crosses th prev x = true ↔ th ≤ magnitude x ∧ prev < th := by simp [crosses]

theorem enterArmed_setPrev (k : Core) (c : Chan) (e) (m : Nat) :
    (k.enterArmed c e).setPrev c m = k.withDetector c { state := .armed e, threshold := thresholdFor (k.settingsOf c) (k.detector c).noise, noise := (k.detector c).noise, prev := m } := by
  have : (k.enterArmed c e).detector c = { k.detector c with state := .armed e, threshold := thresholdFor (k.settingsOf c) (k.detector c).noise } := by simp
  unfold Core.setPrev
  rw [this]
  have h2 : k.enterArmed c e = k.withDetector c ((k.enterArmed c e).detector c) := by
    rw [this]
    unfold Core.enterArmed Core.computeThreshold
    have h3 : (k.setDetectorState c (.armed e)).detector c = { k.detector c with state := .armed e } := by simp
    rw [h3]; exact setDetector_setDetector _ _ _ _
  rw [h2]
  exact setDetector_setDetector k c _ _

theorem setPrev_enterArmed (k : Core) (c : Chan) (e) (m : Nat) :
    (k.setPrev c m).enterArmed c e = k.withDetector c { state := .armed e, threshold := thresholdFor (k.settingsOf c) (k.detector c).noise, noise := (k.detector c).noise, prev := m } := by
  unfold Core.enterArmed Core.computeThreshold Core.setDetectorState
  have h1 : (k.setPrev c m).detector c = { k.detector c with prev := m } := by simp
  rw [h1]
  have h4 : (k.setPrev c m).setDetector c { k.detector c with prev := m, state := .armed e } = k.withDetector c { k.detector c with prev := m, state := .armed e } :=
    setDetector_setDetector k c _ _
  dsimp only at h4 ⊢
  rw [h4]
  have h5 : (k.withDetector c { k.detector c with prev := m, state := .armed e }).detector c = { k.detector c with prev := m, state := .armed e } := by
    simp [Core.withDetector, Core.detector]
  dsimp only at h5 ⊢
  rw [h5]
  exact setDetector_setDetector k c _ _

theorem offerArrival_hits (k : Core) (a) : (k.offerArrival a).1.hits = k.hits := via Core.hits (k.offerArrival_besideEvents a) rfl rfl

theorem requestHold_besideHolds (k : Core) (c r) : (k.requestHold c r).1.besideHolds = k.besideHolds := by
  unfold Core.requestHold; dsimp only
  split
  · rfl
  · split
    · rfl
    · split
      · rfl
      · split <;> rfl

theorem openHit_spec (k : Core) (c : Chan) (index t : Nat) (x : BitVec 16) (b : Bool) :
    (k.openHit c index t x b).hits.nextHit = k.hits.nextHit + 1 ∧
    (∀ j, j ≠ c → (k.openHit c index t x b).detector j = k.detector j) ∧
    ∃ hold, (k.openHit c index t x b).detector c = { k.detector c with state := .opened { k.openContext c index t x (k.openFlags c b) k.hits.nextHit hold with
        flags := { k.openFlags c b with notGrouped := !(k.offerArrival { chan := c, time := t, hit := k.hits.nextHit }).2 } } } := by
  let k1 := k.setHits { k.hits with nextHit := k.hits.nextHit + 1 }
  let o := k1.offerArrival { chan := c, time := t, hit := k.hits.nextHit }
  obtain ⟨g, hg⟩ : ∃ g, g = o.1.requestHold c { hit := k.hits.nextHit, index := index, before := t / 32, preBlocks := (k.settingsOf c).preBlocks, maxLen := (k.settingsOf c).maxLen, mode := (k.settingsOf c).holdMode } := ⟨_, rfl⟩
  have he : k.openHit c index t x b = g.1.setDetectorState c (.opened { k.openContext c index t x (k.openFlags c b) k.hits.nextHit (.noHold .noMode) with
      hold := g.2, flags := { k.openFlags c b with notGrouped := !o.2 } }) := by rw [hg]; rfl
  have hh : g.1.hits = k1.hits := by
    have h1 : g.1.hits = o.1.hits := by rw [hg]; exact via Core.hits (requestHold_besideHolds _ _ _) rfl rfl
    rw [h1]; exact offerArrival_hits _ _
  have ho : o.2 = (k.offerArrival { chan := c, time := t, hit := k.hits.nextHit }).2 := by
    have hof : ∀ (q : Core) a, (q.offerArrival a).2 = (decide (a.time < q.streams.horizon) || decide (q.group.arrivals.length < 64)) := by
      intro q a; unfold Core.offerArrival
      split
      · rename_i h; simp [h]
      · rename_i h; split
        · rename_i h2; simp [h2]
        · rename_i h2; simp only [h, h2]; rfl
    show (Core.offerArrival k1 _).2 = _
    rw [hof, hof]; rfl
  rw [he]
  refine ⟨?_, ?_, g.2, ?_⟩
  · show g.1.hits.nextHit = _; rw [hh]; rfl
  · intro j hj
    rw [Core.setDetectorState_detector, if_neg (fun h => hj h.symm)]
    simp only [Core.detector, hh]; rfl
  · rw [Core.setDetectorState_detector, if_pos rfl, ho]
    simp only [Core.detector, hh]; rfl

theorem takeArmed_not (k : Core) (c : Chan) (i : Nat) (t : Nat) (x : BitVec 16) (e : Option Nat)
    (h : ¬ (((contEndAt e t).isSome && decide ((k.detector c).threshold ≤ magnitude x)) || crosses (k.detector c).threshold (k.detector c).prev x) = true) :
    k.takeArmed c i e t x = (k.setDetectorState c (.armed (contEndAt e t))).setPrev c (magnitude x) := by
  unfold Core.takeArmed; dsimp only; rw [if_neg h]

theorem takeArmed_open (k : Core) (c : Chan) (i : Nat) (t : Nat) (x : BitVec 16) (e : Option Nat)
    (h : (((contEndAt e t).isSome && decide ((k.detector c).threshold ≤ magnitude x)) || crosses (k.detector c).threshold (k.detector c).prev x) = true) :
    k.takeArmed c i e t x = (k.openHit c i t x ((contEndAt e t).isSome && decide ((k.detector c).threshold ≤ magnitude x))).setPrev c (magnitude x) := by
  unfold Core.takeArmed; dsimp only; rw [if_pos h]

theorem setPrev_at (k : Core) (c : Chan) (m) : (k.setPrev c m).detector c = { k.detector c with prev := m } := by simp

end Sys2Proof.Machine
end

