-- ==== Sys2Proof/Laws/Triggers.lean ====
section
/-! SUPPORT. What a trigger and the end of a check do to the detectors and to the rest. -/

namespace Sys2Proof.Machine

theorem openHit_streams (k : Core) (c : Chan) (index t : Nat) (x : BitVec 16) (b : Bool) : (k.openHit c index t x b).streams = k.streams := by
  unfold Core.openHit; dsimp only
  show (Core.requestHold _ _ _).1.streams = _
  rw [show ∀ (k : Core) c r, (k.requestHold c r).1.streams = k.streams from fun k c r => via Core.streams (requestHold_besideHolds k c r) rfl rfl]
  exact via Core.streams (Core.offerArrival_besideEvents _ _) rfl rfl

/-- A hit that opens at or above the horizon leaves the record writer and the command unit alone. -/
theorem openHit_writer (k : Core) (c : Chan) (index t : Nat) (x : BitVec 16) (b : Bool) (h : k.streams.horizon ≤ t) :
    (k.openHit c index t x b).writer = k.writer ∧ (k.openHit c index t x b).unit = k.unit := by
  have hr : ∀ (k : Core) c r, (k.requestHold c r).1.writer = k.writer ∧ (k.requestHold c r).1.unit = k.unit := by
    intro k c r; unfold Core.requestHold; dsimp only
    split
    · exact ⟨rfl, rfl⟩
    · split
      · exact ⟨rfl, rfl⟩
      · split
        · exact ⟨rfl, rfl⟩
        · split <;> exact ⟨rfl, rfl⟩
  have ho : ∀ (k : Core) (a : Arrival), k.streams.horizon ≤ a.time → (k.offerArrival a).1.writer = k.writer ∧ (k.offerArrival a).1.unit = k.unit := by
    intro k a h; unfold Core.offerArrival; rw [if_neg (Nat.not_lt.2 h)]
    split <;> exact ⟨rfl, rfl⟩
  have hk : ∀ n, (k.setHits { k.hits with nextHit := n }).streams.horizon ≤ t := fun _ => h
  unfold Core.openHit; dsimp only
  constructor
  · show (Core.requestHold _ _ _).1.writer = _
    rw [(hr _ _ _).1, (ho _ _ (hk _)).1]; rfl
  · show (Core.requestHold _ _ _).1.unit = _
    rw [(hr _ _ _).2, (ho _ _ (hk _)).2]; rfl

theorem markFrozen_state (d : Detector) : d.markFrozen.state = d.state ∨ ∃ h, d.state = .opened h := by
  unfold Detector.markFrozen; split
  · rename_i h hh; right; exact ⟨h, hh⟩
  · left; rfl
  · left; rfl
  · left; rfl
  · left; rfl

theorem markFrozen_other (d : Detector) (h : ∀ x, d.state ≠ .opened x) : d.markFrozen = d := by
  unfold Detector.markFrozen; split
  · rename_i x hh; exact absurd hh (h x)
  all_goals rfl

theorem freezeRing_detector (k : Core) (c j : Chan) (st) : (k.freezeRing c st).detector j = if c = j then (k.detector j).markFrozen else k.detector j := by
  simp only [Core.freezeRing, Core.detector, Core.setDetector, Core.setHits, Core.setTracker, Core.setStreams, Core.setFreeze, Core.setGuard, look_put]
  split
  · subst_vars; rfl
  · rfl

theorem markFrozen_idem (d : Detector) : d.markFrozen.markFrozen = d.markFrozen := by
  rcases d with ⟨st, a, b, c⟩
  cases st <;> rfl

theorem giveFreezeState_detector (k : Core) (c j : Chan) : (k.giveFreezeState c).detector j = k.detector j ∨ (k.giveFreezeState c).detector j = (k.detector j).markFrozen := by
  unfold Core.giveFreezeState
  split
  · rw [freezeRing_detector]; split <;> simp
  · rw [freezeRing_detector]; split <;> simp
  all_goals left; rfl

theorem give_detector (k : Core) (j : Chan) : (forChans Core.giveFreezeState k).detector j = k.detector j ∨ (forChans Core.giveFreezeState k).detector j = (k.detector j).markFrozen := by
  refine forChans_rel (R := fun k k' => k'.detector j = k.detector j ∨ k'.detector j = (k.detector j).markFrozen) (fun _ => Or.inl rfl) ?_ k
  intro k k' c h
  rcases giveFreezeState_detector k' c j with h2 | h2 <;> rcases h with h | h <;> rw [h2, h]
  · left; rfl
  · right; rfl
  · right; rfl
  · right; exact markFrozen_idem _

/-- What taking a trigger leaves as it is, the record it hands over and the cause it raises. -/
structure TriggerKept (k k' : Core) (tt : TriggerTaking) : Prop where
  group : k'.group = k.group
  check : k'.check = k.check
  holds : k'.guard.holds = k.guard.holds
  lastFwd : k'.guard.lastFwd = k.guard.lastFwd
  nextHit : k'.hits.nextHit = k.hits.nextHit
  settings : k'.unit.settings = k.unit.settings
  due : k'.unit.due = k.unit.due
  unplacedTrigger : k'.writer.unplacedTrigger = true
  unplacedCheck : k'.writer.unplacedCheck = k.writer.unplacedCheck
  detector : ∀ j, k'.detector j = k.detector j ∨ k'.detector j = (k.detector j).markFrozen
  run : k'.unit.run = .postTrigger ∨ k'.unit.run = .frozen
  queue : ∃ rest, k'.writer.queue = k.writer.queue ++ .trigger (k.triggerRecord tt) :: rest
  pending : ∃ x, k'.unit.pending = k.unit.pending ||| 8 ||| x

theorem takeTrigger_spec (k : Core) (tt : TriggerTaking) :
    TriggerKept k (k.takeTrigger tt) tt ∧ (k.takeTrigger tt).monitor = { k.monitor with tt := k.streams.horizon, post := some (k.postContext tt) } := by
  obtain ⟨k1, hk1⟩ : ∃ k1, k1 = (((k.setMonitor { k.monitor with tt := k.streams.horizon, post := some (k.postContext tt) }).setRun .postTrigger).handTrigger (k.triggerRecord tt)) := ⟨_, rfl⟩
  obtain ⟨k2, hk2⟩ : ∃ k2, k2 = forChans Core.giveFreezeState k1 := ⟨_, rfl⟩
  obtain ⟨k3, hk3⟩ : ∃ k3, k3 = k2.setPressureFreeze { state := if k2.pressureEntry.valid then .counting else .noRing, point := none } := ⟨_, rfl⟩
  have he : k.takeTrigger tt = k3.allFrozenTest := by rw [hk3, hk2, hk1]; rfl
  have hrel : FreezeKept k1 k2 := by rw [hk2]; exact forChans_rel FreezeKept.refl (fun k k' c h => h.trans (giveFreezeState_kept k' c)) k1
  have hdet : ∀ j, k2.detector j = k1.detector j ∨ k2.detector j = (k1.detector j).markFrozen := by rw [hk2]; exact give_detector k1
  have kept : ∀ {α : Type} (F : Core → α), (∀ k st, F (k.freezePressure st) = F k) → (∀ k r, F (k.setRun r) = F k) → (∀ k r, F (k.handFreeze r) = F k) → (∀ k c, F (k.raise c) = F k) → F (k3.allFrozenTest) = F k3 :=
    fun F f1 f2 f3 f4 => allFrozenTest_keeps F f1 f2 f3 f4 k3
  rw [he]
  refine ⟨⟨?_, ?_, ?_, ?_, ?_, ?_, ?_, ?_, ?_, ?_, ?_, ?_, ?_⟩, ?_⟩
  · rw [kept Core.group (fun _ _ => rfl) (fun _ _ => rfl) (fun _ _ => rfl) (fun _ _ => rfl), hk3]
    exact hrel.group.trans (by rw [hk1]; rfl)
  · rw [kept Core.check (fun _ _ => rfl) (fun _ _ => rfl) (fun _ _ => rfl) (fun _ _ => rfl), hk3]
    exact hrel.check.trans (by rw [hk1]; rfl)
  · rw [kept (fun k => k.guard.holds) (fun _ _ => rfl) (fun _ _ => rfl) (fun _ _ => rfl) (fun _ _ => rfl), hk3]
    exact hrel.holds.trans (by rw [hk1]; rfl)
  · rw [kept (fun k => k.guard.lastFwd) (fun _ _ => rfl) (fun _ _ => rfl) (fun _ _ => rfl) (fun _ _ => rfl), hk3]
    exact hrel.lastFwd.trans (by rw [hk1]; rfl)
  · rw [kept (fun k => k.hits.nextHit) (fun _ _ => rfl) (fun _ _ => rfl) (fun _ _ => rfl) (fun _ _ => rfl), hk3]
    exact hrel.nextHit.trans (by rw [hk1]; rfl)
  · rw [kept (fun k => k.unit.settings) (fun _ _ => rfl) (fun _ _ => rfl) (fun _ _ => rfl) (fun _ _ => rfl), hk3]
    show k2.unit.settings = _; rw [hrel.unit, hk1]; rfl
  · rw [kept (fun k => k.unit.due) (fun _ _ => rfl) (fun _ _ => rfl) (fun _ _ => rfl) (fun _ _ => rfl), hk3]
    show k2.unit.due = _; rw [hrel.unit, hk1]; rfl
  · rw [kept (fun k => k.writer.unplacedTrigger) (fun _ _ => rfl) (fun _ _ => rfl) (fun _ _ => rfl) (fun _ _ => rfl), hk3]
    show k2.writer.unplacedTrigger = _; rw [hrel.writer, hk1]; rfl
  · rw [kept (fun k => k.writer.unplacedCheck) (fun _ _ => rfl) (fun _ _ => rfl) (fun _ _ => rfl) (fun _ _ => rfl), hk3]
    show k2.writer.unplacedCheck = _; rw [hrel.writer, hk1]; rfl
  · intro j
    have e1 : k3.allFrozenTest.detector j = k2.detector j := by
      rw [kept (fun k => k.detector j) (fun _ _ => rfl) (fun _ _ => rfl) (fun _ _ => rfl) (fun _ _ => rfl), hk3]; rfl
    have e2 : k1.detector j = k.detector j := by rw [hk1]; rfl
    rw [e1, ← e2]; exact hdet j
  · unfold Core.allFrozenTest; split
    · left; rw [hk3]; show k2.unit.run = _; rw [hrel.unit, hk1]; rfl
    · right; exact allFrozenStep_run _
  · have e3 : k3.writer.queue = k.writer.queue ++ [.trigger (k.triggerRecord tt)] := by
      rw [hk3]; show k2.writer.queue = _; rw [hrel.writer, hk1]; rfl
    unfold Core.allFrozenTest; split
    · exact ⟨[], e3⟩
    · obtain ⟨rest, hr⟩ := allFrozenStep_queue k3
      exact ⟨rest, by rw [hr, e3, List.append_assoc]; rfl⟩
  · have e3 : k3.unit.pending = k.unit.pending ||| 8 := by
      rw [hk3]; show k2.unit.pending = _; rw [hrel.unit, hk1]; rfl
    unfold Core.allFrozenTest; split
    · exact ⟨0, e3.trans (by simp)⟩
    · exact ⟨16, by rw [allFrozenStep_pending, e3]⟩
  · rw [kept Core.monitor (fun _ _ => rfl) (fun _ _ => rfl) (fun _ _ => rfl) (fun _ _ => rfl), hk3]
    exact hrel.monitor.trans (by rw [hk1]; rfl)

theorem leaveCheck_detector (k : Core) (c j : Chan) : (k.leaveCheck c).detector j =
    if c = j ∧ (k.detector j).inCheck = true then { k.detector j with state := .armed none, threshold := thresholdFor (k.settingsOf j) (k.detector j).noise } else k.detector j := by
  unfold Core.leaveCheck Detector.inCheck
  by_cases h : c = j
  · subst h; split <;> rename_i hh <;> simp [hh]
  · split <;> simp [h]

theorem leaveChecks_detector (k : Core) (j : Chan) : (forChans Core.leaveCheck k).detector j =
    if (k.detector j).inCheck = true then { k.detector j with state := .armed none, threshold := thresholdFor (k.settingsOf j) (k.detector j).noise } else k.detector j := by
  refine forChans_at (get := Core.detector) (R := fun k k' => k'.besideDetectors = k.besideDetectors)
    (g := fun k j => if (k.detector j).inCheck = true then { k.detector j with state := .armed none, threshold := thresholdFor (k.settingsOf j) (k.detector j).noise } else k.detector j) (fun _ => rfl) ?_ ?_ ?_ k j
  · intro k k' c h; rw [Core.leaveCheck_besideDetectors, h]
  · intro k c j hj; rw [leaveCheck_detector, if_neg]; rintro ⟨rfl, _⟩; exact hj rfl
  · intro k k' j hR hg
    have hs : k'.unit.settings = k.unit.settings := via (fun k : Core => k.unit.settings) hR rfl rfl
    rw [leaveCheck_detector, hg, Core.settingsOf_congr hs]; simp

end Sys2Proof.Machine
end

