-- ==== Sys2Proof/Laws/Writes.lean ====
section
/-! SUPPORT. What an accepted write comes to: the link's part, the guard's decision, and a fault raised. -/

namespace Sys2Proof.Machine

/-- What an entry that is no host read does at its return. -/
theorem entryReturned_write (k : Core) (p : Port) (e : Accepted) (w : BlockWrite) (r : Returned) (h : e.request = .write w) :
    k.entryReturned p e r = k := by
  unfold Core.entryReturned; rw [h]; cases p <;> cases r <;> rfl

/-- An accepted write at a ready port: how its entry joins, and that its return acts on nothing. -/
theorem joined_write (s : State) (p : Port) (e : Accepted) (w : BlockWrite) (hs : (s.port p).settled = true) (hw : e.request = .write w) :
    ((s.enqueue p e).returnReady p) = s.setPort p ((s.port p).joined e) := by
  rw [State.returnReady_enqueue s p e hs]
  unfold PortState.joined
  cases hq : (s.port p).accepted with
  | nil =>
    cases hc : e.cond with
    | complete r =>
      simp only [State.returnOne, State.enqueue, State.port_setPort_self, State.setPort_core, entryReturned_write _ p e w r hw]
      cases p <;> rfl
    | waiting => simp only [State.enqueue, hq]
    | issued => simp only [State.enqueue, hq]
  | cons a as => simp only [State.enqueue, hq]

/-- An acquisition write that arrives at a ready port. -/
theorem acquisition_taken (s : State) (w : BlockWrite) (h : s.Ready .acquisition) :
    s.AcquisitionTaken ((s.arrive .acquisition (.write w)).present) w (s.takeAcquisitionWrite w).2 ∧
    ((s.arrive .acquisition (.write w)).present).core = (s.takeAcquisitionWrite w).1.core := by
  have hb : s.writeBeginsApply .acquisition w = false := rfl
  have hp : ((s.takeAcquisitionWrite w).1).port .acquisition = s.port .acquisition := by
    simp [State.port]
  have hj := joined_write (s.takeAcquisitionWrite w).1 .acquisition (writeEntry s .acquisition w) w
    (by rw [hp]; exact h.settled) rfl
  have he : writeEntry s .acquisition w = s.writeEntryOf w (s.takeAcquisitionWrite w).2 := by
    simp only [writeEntry, hb, State.writeEntryOf, State.takeWrite, writeCondition]; rfl
  obtain ⟨t, ht⟩ : ∃ t, t = (s.takeAcquisitionWrite w).1 := ⟨_, rfl⟩
  have hk : t.strap = s.strap ∧ t.linkReset = s.linkReset ∧ t.timeRef = s.timeRef ∧ t.pending = s.pending ∧ t.arb = s.arb ∧ t.host = s.host ∧ t.issued = s.issued := by
    rw [ht]; unfold State.takeAcquisitionWrite; split <;> exact ⟨rfl, rfl, rfl, rfl, rfl, rfl, rfl⟩
  rw [State.arrive_write s _ _ h]
  simp only [State.takeWrite] at hj ⊢
  rw [hj, hp, he, ← ht]
  obtain ⟨a1, a2, a3, a4, a5, a6, a7⟩ := hk
  refine ⟨⟨⟨?_, ?_, ?_, ?_, ?_⟩, ?_, ?_, ?_⟩, ?_⟩ <;>
    simp only [State.present_core, State.present_acq, State.present_host, State.present_issued, State.present_pending, State.present_strap,
      State.present_timeRef, State.present_linkReset, State.present_lastGrant, State.setPort, a1, a2, a3, a4, a5, a6, a7, State.port]

theorem takeHostWrite_link (s : State) (w : BlockWrite) (h : (∀ c, s.place w.addr.toNat ≠ .control c) ∨ ∃ c, s.place w.addr.toNat = .control c ∧ 2 ≤ c) :
    ∃ k, s.takeHostWrite w = (s.setCore k, (s.takeHostWrite w).2) := by
  unfold State.takeHostWrite
  split
  · exact ⟨_, rfl⟩
  · exact ⟨_, rfl⟩
  · rename_i c hc
    rcases h with h | ⟨d, h, hd⟩
    · exact absurd hc (h c)
    · rw [hc] at h; cases h
      refine ⟨s.core.reportPageWrite c, ?_⟩
      unfold State.takePageWrite
      match c, hd with
      | c + 2, _ => rfl
  · exact ⟨s.core, rfl⟩
  · exact ⟨s.core, rfl⟩

/-- A host write into a ring, or to no block that carries a command, that arrives at a ready port. -/
theorem host_write_taken (s : State) (w : BlockWrite) (h : s.Ready .host)
    (hc : (∀ c, s.place w.addr.toNat ≠ .control c) ∨ ∃ c, s.place w.addr.toNat = .control c ∧ 2 ≤ c) :
    s.HostWriteTaken ((s.arrive .host (.write w)).present) w (s.takeHostWrite w).2 ∧
    ((s.arrive .host (.write w)).present).core = (s.takeHostWrite w).1.core := by
  have hb : s.writeBeginsApply .host w = false := by
    unfold State.writeBeginsApply
    split
    · rename_i h0
      rcases hc with hc | ⟨d, hc, hd⟩
      · exact absurd h0 (hc 0)
      · rw [h0] at hc; cases hc; omega
    · rfl
  obtain ⟨k, hk⟩ := takeHostWrite_link s w hc
  have h1 : (s.takeHostWrite w).1 = s.setCore k := by rw [hk]
  have hj := joined_write (s.setCore k) .host (writeEntry s .host w) w (by simpa [State.port] using h.settled) rfl
  have he : writeEntry s .host w = s.writeEntryOf w (s.takeHostWrite w).2 := by
    simp only [writeEntry, hb, State.writeEntryOf, State.takeWrite, writeCondition]; rfl
  rw [State.arrive_write s _ _ h]
  simp only [State.takeWrite] at hj ⊢
  rw [h1, hj, he]
  refine ⟨⟨⟨?_, ?_, ?_, ?_, ?_⟩, ?_, ?_, ?_⟩, ?_⟩ <;>
    simp [State.setPort, State.port]

theorem takeAcq_acoustic (s : State) (w : BlockWrite) {c n} (h : s.place w.addr.toNat = .acoustic c n) :
    s.takeAcquisitionWrite w = (s.setCore (s.core.acousticWrite c n w).1, (s.core.acousticWrite c n w).2) := by
  unfold State.takeAcquisitionWrite; rw [h]

theorem takeAcq_pressure (s : State) (w : BlockWrite) {n} (h : s.place w.addr.toNat = .pressure n) :
    s.takeAcquisitionWrite w = (s.setCore (s.core.pressureWrite n w).1, (s.core.pressureWrite n w).2) := by
  unfold State.takeAcquisitionWrite; rw [h]

theorem absorbsAcoustic_iff (k : Core) (c : Chan) (n : Nat) : k.absorbsAcoustic c n = true ↔ k.Protected c n := by
  unfold Core.absorbsAcoustic Core.Protected
  rw [Bool.or_eq_true]
  refine or_congr ?_ Iff.rfl
  unfold Core.holdAt
  rw [List.find?_isSome]
  constructor
  · rintro ⟨h, -, hh⟩
    unfold Core.holdCovers at hh
    split at hh
    · rename_i x hx
      simp only [Bool.and_eq_true, beq_iff_eq] at hh
      exact ⟨h, x, hx, hh.1, hh.2⟩
    · exact absurd hh (by simp)
  · rintro ⟨h, x, hx, h1, h2⟩
    refine ⟨h, List.mem_finRange h, ?_⟩
    simp [Core.holdCovers, hx, h1, h2]

theorem countHoldAbsorbed_hold (k : Core) (o : Option (Fin 64)) (g : Fin 64) : (k.countHoldAbsorbed o).hold g =
    if o = some g then (k.hold g).map fun x => { x with absorbed := min (x.absorbed + 1) 65535 } else k.hold g := by
  unfold Core.countHoldAbsorbed
  cases o with
  | none => simp
  | some h =>
    dsimp only
    split
    · rename_i hh
      split
      · rename_i e; cases e; simp [hh]
      · rfl
    · rename_i x hh
      simp only [Core.hold, Core.setHold, Core.setGuard, look_put]
      by_cases e : h = g
      · subst e; simp only [Core.hold] at hh; simp [hh, satInc]
      · have : some h ≠ some g := fun e2 => e (Option.some.inj e2)
        simp [e]

theorem countHoldAbsorbed_keeps (k : Core) (o : Option (Fin 64)) : ∃ hs, k.countHoldAbsorbed o = k.setGuard { k.guard with holds := hs } := by
  unfold Core.countHoldAbsorbed
  cases o with
  | none => exact ⟨k.guard.holds, rfl⟩
  | some h =>
    dsimp only; split
    · exact ⟨k.guard.holds, rfl⟩
    · exact ⟨_, rfl⟩

theorem countAbsorbed_spec (k : Core) (c : Chan) (n : Nat) : k.CountedAbsorbed (k.countAbsorbed c (k.holdAt c n)) c n := by
  unfold Core.countAbsorbed
  obtain ⟨hs, hh⟩ := countHoldAbsorbed_keeps (k.setTracker c { k.tracker c with absorbed := satInc (k.tracker c).absorbed }) (k.holdAt c n)
  have hold := countHoldAbsorbed_hold (k.setTracker c { k.tracker c with absorbed := satInc (k.tracker c).absorbed }) (k.holdAt c n)
  constructor
  · intro j; rw [hh]
    show look (put _ _ _) j = _
    rw [look_put]
    by_cases h : c = j
    · subst h; simp [satInc]
    · rw [if_neg h, if_neg (fun e => h e.symm)]; rfl
  · intro g; rw [hold]; rfl
  all_goals rw [hh]
  · rfl
  · exact ⟨rfl, rfl⟩
  · exact ⟨rfl, rfl, rfl, rfl⟩
  · exact ⟨rfl, rfl, rfl, rfl, rfl, rfl⟩

/-- A write that no block analyses: the guard alone. -/
theorem guardStage_none (k : Core) (c : Chan) (n : Nat) (a : Bool) (o) :
    k.guardStage c n a o none = if a then (k.countAbsorbed c o, true) else (k.setLastForwarded c n, false) := by
  unfold Core.guardStage
  have : k.freezesAtWrite c none = false := rfl
  simp [this]

theorem acousticWrite_unplaced {k k1 : Core} {c : Chan} {n : Nat} {w : BlockWrite} (h : k.position c n (w.mask == fullMask) = (k1, none)) :
    k.acousticWrite c n w = if k.absorbsAcoustic c n then (k1.countAbsorbed c (k.holdAt c n), true) else (k1.setLastForwarded c n, false) := by
  unfold Core.acousticWrite
  rw [h]
  dsimp only [Core.detectStage]
  rw [guardStage_none]
  cases k.absorbsAcoustic c n <;> simp [Core.timeStage]

theorem pressureWrite_unplaced {k k1 : Core} {n : Nat} {w : BlockWrite} (h : k.pressurePosition n (w.mask == fullMask) = (k1, none)) :
    k.pressureWrite n w = if k.streams.pressure.frozen then (k1, true) else (k1.setPressureLastForwarded n, false) := by
  unfold Core.pressureWrite; rw [h]; dsimp only [Core.monitorStage]; rw [Bool.or_false]

/-- A reported write into the control page sets the disturbance mark exactly within the fetched range. -/
theorem reportPageWrite_spec (k : Core) (b : Nat) :
    (k.fetches b → k.reportPageWrite b = { k with unit := { k.unit with disturbed := true } }) ∧
    (¬k.fetches b → k.reportPageWrite b = k) := by
  unfold Core.reportPageWrite Core.fetches
  split
  · rename_i tag paths f h
    unfold fetchLast
    constructor
    · rintro ⟨t2, p2, f2, h2, h3⟩
      cases h.symm.trans h2
      rw [if_pos h3]; rfl
    · intro h2
      rw [if_neg (fun h3 => h2 ⟨_, _, _, h, h3⟩)]
  · rename_i h
    exact ⟨(by rintro ⟨_, _, _, h2, _⟩; cases h.symm.trans h2), fun _ => rfl⟩
  · rename_i h
    exact ⟨(by rintro ⟨_, _, _, h2, _⟩; cases h.symm.trans h2), fun _ => rfl⟩

theorem mergeYoungest_none {f : Record → Option Record} {q : List Record} (h : ∀ r ∈ q, f r = none) : mergeYoungest f q = none := by
  induction q with
  | nil => rfl
  | cons a q ih =>
    simp only [mergeYoungest, ih fun r hr => h r (List.mem_cons_of_mem _ hr), h a List.mem_cons_self]; rfl

theorem mergeYoungest_some {f : Record → Option Record} {a b : List Record} {x y : Record} (h : ∀ r ∈ b, f r = none) (hx : f x = some y) :
    mergeYoungest f (a ++ x :: b) = some (a ++ y :: b) := by
  induction a with
  | nil => simp [mergeYoungest, mergeYoungest_none h, hx]
  | cons c a ih => simp [mergeYoungest, ih]

theorem mergeFault_none {i : FaultInfo} {r : Record} (h : r.isFault = false) : mergeFault i r = none := by
  cases r <;> first | rfl | simp [Record.isFault] at h

/-- What raising a fault changes. -/
theorem raiseFault_eq (k : Core) (i : FaultInfo) : k.raiseFault i = { k with
    streams := (k.countFault i.place).streams
    writer := { k.writer with queue := (mergeYoungest (mergeFault i) k.writer.queue).getD (k.writer.queue ++ [k.faultRecord i]) }
    unit := { k.unit with pending := k.unit.pending ||| 64, dirty := k.unit.dirty || (k.unit.pending ||| 64) != k.unit.pending } } := by
  rcases i with ⟨kind, place, a, b, c, d, e, f⟩
  cases place <;> rfl

theorem raiseFault_fresh (k : Core) (i : FaultInfo) (h : ∀ r ∈ k.writer.queue, r.isFault = false) :
    (k.raiseFault i).writer = { k.writer with queue := k.writer.queue ++ [k.faultRecord i] } := by
  rw [raiseFault_eq, mergeYoungest_none fun r hr => mergeFault_none (h r hr)]; rfl

theorem countFault_tracker (k : Core) (c j : Chan) : (k.countFault (.acoustic c)).tracker j =
    if c = j then { k.tracker j with faults := min ((k.tracker j).faults + 1) 65535 } else k.tracker j := by
  show look (put _ _ _) j = _
  rw [look_put]; split
  · subst_vars; rfl
  · rfl

theorem kinds_merge (x : Byte) (kind : FaultKind) (b : Nat) :
    (x ||| (1#8 <<< (kind.code - 1))).getLsbD b = (x.getLsbD b || decide (b + 1 = kind.code)) := by
  have : ∀ (n : Nat), n < 8 → (1#8 <<< n).getLsbD b = decide (b = n) := by
    intro n hn
    rw [BitVec.getLsbD_shiftLeft]
    by_cases h : b = n
    · subst h; simp [hn]
    · simp only [h, decide_false]
      by_cases h2 : b < n
      · simp [h2]
      · have : b - n ≠ 0 := by omega
        simp [this]
  rw [BitVec.getLsbD_or]
  cases kind <;> simp only [FaultKind.code] <;> rw [this _ (by decide)] <;> simp only [Nat.succ_sub_one] <;> congr 2 <;> simp

end Sys2Proof.Machine
end

