-- ==== Sys2Proof/Laws/Growth.lean ====
section
/-! SUPPORT. What the analysis of a placed write leaves as it is and what it can only raise. `Core.Grows` relates a state to
one that the analysis can lead to, the stall tests and the recomputed times aside; `Core.beside` is everything that a sample
leaves as it is while no check runs. -/

namespace Sys2Proof.Machine

/-! ### Growth -/

/-- A tracker without the marks that a freeze and the guard change. -/
def Tracker.timed (t : Tracker) : Tracker := { t with frozen := false, absorbed := 0 }

def Streams.timed (s : Streams) : Streams :=
  { s with chan := tabulate fun c => (look s.chan c).timed, pressure := { s.pressure with frozen := false } }

/-- Positions, counts, stalled flags and times stay; causes, frozen flags and unplaced marks are only ever added. -/
structure Core.Grows (k k' : Core) : Prop where
  view    : k'.view = k.view
  timed   : k'.streams.timed = k.streams.timed
  pending : ∃ x, k'.unit.pending = k.unit.pending ||| x
  frozen  : ∀ c, (k.tracker c).frozen = true → (k'.tracker c).frozen = true
  pfrozen : k.streams.pressure.frozen = true → k'.streams.pressure.frozen = true
  trigger : k.writer.unplacedTrigger = true → k'.writer.unplacedTrigger = true
  freeze  : k.writer.unplacedFreeze = true → k'.writer.unplacedFreeze = true
  check   : k.writer.unplacedCheck = true → k'.writer.unplacedCheck = true

theorem or_self_ex (x : Byte) : ∃ y, x = x ||| y := ⟨0, by simp⟩

theorem Core.Grows.refl (k : Core) : k.Grows k := ⟨rfl, rfl, or_self_ex _, fun _ h => h, fun h => h, fun h => h, fun h => h, fun h => h⟩

theorem Core.Grows.trans {a b c : Core} (h : a.Grows b) (g : b.Grows c) : a.Grows c := by
  obtain ⟨x, hx⟩ := h.pending
  obtain ⟨y, hy⟩ := g.pending
  exact ⟨g.view.trans h.view, g.timed.trans h.timed, ⟨x ||| y, by rw [hy, hx, BitVec.or_assoc]⟩, fun c e => g.frozen c (h.frozen c e),
    fun e => g.pfrozen (h.pfrozen e), fun e => g.trigger (h.trigger e), fun e => g.freeze (h.freeze e), fun e => g.check (h.check e)⟩

/-- Blocks other than the streams change, the pending causes and the unplaced marks not. -/
theorem Core.Grows.of {k k' : Core} (hv : k'.view = k.view) (hs : k'.streams = k.streams) (hp : ∃ x, k'.unit.pending = k.unit.pending ||| x)
    (ht : k'.writer.unplacedTrigger = k.writer.unplacedTrigger) (hf : k'.writer.unplacedFreeze = k.writer.unplacedFreeze)
    (hc : k'.writer.unplacedCheck = k.writer.unplacedCheck) : k.Grows k' :=
  ⟨hv, by rw [hs], hp, fun c e => by unfold Core.tracker at *; rw [hs]; exact e, fun e => by rw [hs]; exact e, fun e => by rw [ht]; exact e,
    fun e => by rw [hf]; exact e, fun e => by rw [hc]; exact e⟩

theorem Core.Grows.of_aside {k k' : Core} (h : k'.aside = k.aside) (hv : k'.view = k.view) (hp : ∃ x, k'.unit.pending = k.unit.pending ||| x) : k.Grows k' :=
  .of hv (via Core.streams h rfl rfl) hp (via (fun k : Core => k.writer.unplacedTrigger) h rfl rfl) (via (fun k : Core => k.writer.unplacedFreeze) h rfl rfl)
    (via (fun k : Core => k.writer.unplacedCheck) h rfl rfl)

theorem Core.Grows.of_holds {k k' : Core} (h : k'.besideHolds = k.besideHolds) (hv : k'.view = k.view) (hp : ∃ x, k'.unit.pending = k.unit.pending ||| x) : k.Grows k' :=
  .of hv (via Core.streams h rfl rfl) hp (via (fun k : Core => k.writer.unplacedTrigger) h rfl rfl) (via (fun k : Core => k.writer.unplacedFreeze) h rfl rfl)
    (via (fun k : Core => k.writer.unplacedCheck) h rfl rfl)

/-- Hits, grouper, holds, freeze states, monitor context and check unit change alone. -/
theorem Core.Grows.of_unit {k k' : Core} (hv : k'.view = k.view) (hs : k'.streams = k.streams) (hu : k'.unit.pending = k.unit.pending) (hw : k'.writer = k.writer) : k.Grows k' :=
  .of hv hs (by rw [hu]; exact or_self_ex _) (by rw [hw]) (by rw [hw]) (by rw [hw])

theorem grows_foldl {β : Type} {f : Core → β → Core} (h : ∀ (k : Core) a, k.Grows (f k a)) (l : List β) (k : Core) : k.Grows (l.foldl f k) :=
  foldl_rel (fun _ _ _ e => e.trans (h _ _)) l k k (.refl k)

theorem grows_forChans {f : Core → Chan → Core} (h : ∀ (k : Core) c, k.Grows (f k c)) (k : Core) : k.Grows (forChans f k) :=
  forChans_rel .refl (fun _ _ _ e => e.trans (h _ _)) k

/-! ### Handing over -/

theorem grows_raise (k : Core) (c : Cause) : k.Grows (k.raise c) := .of (k.raise_view c) rfl ⟨c.bit, rfl⟩ rfl rfl rfl
theorem grows_markDirty (k : Core) : k.Grows k.markDirty := .of_unit k.markDirty_view rfl rfl rfl
theorem grows_setRun (k : Core) (r) : k.Grows (k.setRun r) := .of_unit (k.setRun_view r) rfl rfl rfl

theorem pending_handLossIfCounted (k : Core) (r) : (k.handLossIfCounted r).unit.pending = k.unit.pending := by
  unfold Core.handLossIfCounted; split <;> rfl

theorem grows_enterShedding (k : Core) : k.Grows k.enterShedding := .of_aside k.enterShedding_aside k.enterShedding_view ⟨128, enterShedding_pending k⟩

theorem grows_exitTest (k : Core) : k.Grows k.exitTest := .of_aside k.exitTest_aside k.exitTest_view (by rw [exitTest_pending]; exact or_self_ex _)

theorem grows_discard (k : Core) (r b) : k.Grows (k.discard r b) := .of_aside (k.discard_aside r b) (k.discard_view r b) (or_self_ex _)

theorem grows_setQueue (k : Core) (q) : k.Grows (k.setQueue q) := .of_aside (k.setQueue_aside q) (k.setQueue_view q) (or_self_ex _)

theorem grows_handSheddable (k : Core) (r) : k.Grows (k.handSheddable r) := by
  unfold Core.handSheddable
  split
  · exact grows_discard k r _
  · split
    · exact (grows_discard k r _).trans (grows_enterShedding _)
    · exact grows_setQueue k _

theorem grows_handTrigger (k : Core) (r) : k.Grows (k.handTrigger r) :=
  ⟨k.handTrigger_view r, rfl, ⟨8, rfl⟩, fun _ h => h, fun h => h, fun _ => rfl, fun h => h, fun h => h⟩
theorem grows_handFreeze (k : Core) (r) : k.Grows (k.handFreeze r) :=
  ⟨k.handFreeze_view r, rfl, or_self_ex _, fun _ h => h, fun h => h, fun h => h, fun _ => rfl, fun h => h⟩
theorem grows_handCheck (k : Core) (r) : k.Grows (k.handCheck r) :=
  ⟨k.handCheck_view r, rfl, ⟨32, rfl⟩, fun _ h => h, fun h => h, fun h => h, fun h => h, fun _ => rfl⟩

/-! ### Hits and holds -/

theorem grows_reportClosure (k : Core) (h) : k.Grows (k.reportClosure h).1 :=
  .of_holds (k.reportClosure_besideHolds h) (k.reportClosure_view h) (by
    have : (k.reportClosure h).1.unit = k.unit := by
      cases h with
      | held h =>
        show (k.closeHold h).1.unit = _
        unfold Core.closeHold
        split
        · rfl
        · split <;> rfl
      | noHold r => rfl
    rw [this]; exact or_self_ex _)

theorem grows_closeHit (k : Core) (h r t) : k.Grows (k.closeHit h r t) := by
  unfold Core.closeHit
  exact (grows_reportClosure k h.hold).trans (grows_handSheddable _ _)

theorem grows_closeIfOpen (k : Core) (c r) : k.Grows (k.closeIfOpen c r) := by
  unfold Core.closeIfOpen
  split
  · exact grows_closeHit k _ _ _
  all_goals exact .refl k

theorem grows_setDetector (k : Core) (c d) : k.Grows (k.setDetector c d) := .of_unit (k.setDetector_view c d) rfl rfl rfl
theorem grows_setDetectorState (k : Core) (c d) : k.Grows (k.setDetectorState c d) := grows_setDetector k c _
theorem grows_setPrev (k : Core) (c m) : k.Grows (k.setPrev c m) := grows_setDetector k c _
theorem grows_computeThreshold (k : Core) (c) : k.Grows (k.computeThreshold c) := grows_setDetector k c _
theorem grows_enterArmed (k : Core) (c e) : k.Grows (k.enterArmed c e) := (grows_setDetectorState k c _).trans (grows_computeThreshold _ c)
theorem grows_enterCheck (k : Core) (c) : k.Grows (k.enterCheck c) := (grows_setDetectorState k c _).trans (grows_computeThreshold _ c)
theorem grows_withdraw (k : Core) (c) : k.Grows (k.withdraw c) := (grows_closeIfOpen k c _).trans (grows_setDetectorState _ c _)
theorem grows_leaveCheck (k : Core) (c) : k.Grows (k.leaveCheck c) := by
  unfold Core.leaveCheck; split
  · exact grows_enterArmed k c _
  all_goals exact .refl k

theorem grows_setHold (k : Core) (h x) : k.Grows (k.setHold h x) := .of_unit (k.setHold_view h x) rfl rfl rfl
theorem grows_requestHold (k : Core) (c r) : k.Grows (k.requestHold c r).1 := by
  have : (k.requestHold c r).1.unit = k.unit := by
    unfold Core.requestHold; dsimp only; (repeat' split) <;> rfl
  exact .of_holds (requestHold_besideHolds k c r) (k.requestHold_view c r) (by rw [this]; exact or_self_ex _)
theorem grows_growHold (k : Core) (c n h) : k.Grows (k.growHold c n h) := by
  unfold Core.growHold
  (repeat' split) <;> first | exact .refl k | exact grows_setHold k _ _
theorem grows_reportBlock (k : Core) (c n) (h : HitHold) : k.Grows (k.reportBlock c n h) := by
  cases h with
  | held h => exact grows_growHold k c n h
  | noHold r => exact .refl k
theorem grows_countHoldAbsorbed (k : Core) (o) : k.Grows (k.countHoldAbsorbed o) := by
  unfold Core.countHoldAbsorbed
  (repeat' split) <;> first | exact .refl k | exact grows_setHold k _ _

theorem Streams.timed_put (s : Streams) (c : Chan) (t : Tracker) (h : t.timed = (look s.chan c).timed) : ({ s with chan := put s.chan c t } : Streams).timed = s.timed := by
  unfold Streams.timed
  congr 2
  funext j
  rw [look_put]; split
  · subst_vars; exact h
  · rfl

theorem grows_setTracker (k : Core) (c) (t : Tracker) (h : t.timed = (k.tracker c).timed) (hf : (k.tracker c).frozen = true → t.frozen = true) : k.Grows (k.setTracker c t) := by
  have hp : t.pos = (k.tracker c).pos := by
    have := congrArg Tracker.pos h; exact this
  refine ⟨k.setTracker_view c t hp, Streams.timed_put _ c t h, or_self_ex _, fun j e => ?_, fun e => e, fun e => e, fun e => e, fun e => e⟩
  rw [Core.tracker_setTracker]; split
  · subst_vars; exact hf e
  · exact e

theorem grows_countAbsorbed (k : Core) (c o) : k.Grows (k.countAbsorbed c o) :=
  (grows_setTracker k c { k.tracker c with absorbed := satInc (k.tracker c).absorbed } rfl (fun h => h)).trans (grows_countHoldAbsorbed _ o)

/-! ### Events -/

theorem grows_setGroup (k : Core) (g) : k.Grows (k.setGroup g) := .of_unit (k.setGroup_view g) rfl rfl rfl
theorem grows_setEvent (k : Core) (i e) : k.Grows (k.setEvent i e) := grows_setGroup k _
theorem grows_closeEvent (k : Core) (i r) : k.Grows (k.closeEvent i r) := by
  unfold Core.closeEvent; split
  · exact .refl k
  · dsimp only; split
    · exact (grows_setEvent k i none).trans (grows_handSheddable _ _)
    · exact (grows_setEvent k i none).trans (grows_setGroup _ _)
theorem grows_closeEvents (k : Core) (p r) : k.Grows (k.closeEvents p r) :=
  grows_foldl (f := fun k (ie : Fin 8 × Event) => k.closeEvent ie.1 r) (fun k ie => grows_closeEvent k ie.1 r) _ k
theorem grows_closeBelow (k : Core) (t) : k.Grows (k.closeBelow t) := grows_closeEvents k _ _
theorem grows_forceClosure (k : Core) : k.Grows k.forceClosure := by
  unfold Core.forceClosure; split
  · exact .refl k
  · exact (grows_setGroup k _).trans (grows_closeEvent _ _ _)
theorem grows_openEvent (k : Core) (a) : k.Grows (k.openEvent a) := by
  have h : k.Grows (if k.group.freeEvent.isNone then k.forceClosure else k) := by
    split
    · exact grows_forceClosure k
    · exact .refl k
  unfold Core.openEvent
  dsimp only
  split
  · exact h
  · exact (h.trans (grows_setEvent _ _ _)).trans (grows_setGroup _ _)
theorem grows_joinOrOpen (k : Core) (a) : k.Grows (k.joinOrOpen a) := by
  unfold Core.joinOrOpen; split
  · exact grows_openEvent k a
  · exact grows_setEvent k _ _
theorem grows_takeArrival (k : Core) (a) : k.Grows (k.takeArrival a) := by
  unfold Core.takeArrival; dsimp only; split
  · exact (grows_closeBelow k _).trans (grows_setGroup _ _)
  · exact ((grows_closeBelow k _).trans (grows_setGroup _ _)).trans (grows_joinOrOpen _ a)
theorem grows_takeArrivals (k : Core) : k.Grows k.takeArrivals := by
  unfold Core.takeArrivals; dsimp only
  exact ((grows_setGroup k _).trans (grows_foldl grows_takeArrival _ _)).trans (grows_closeBelow _ _)
theorem grows_offerArrival (k : Core) (a) : k.Grows (k.offerArrival a).1 := by
  unfold Core.offerArrival; split
  · exact (grows_takeArrival k a).trans (grows_closeBelow _ _)
  · split <;> exact grows_setGroup k _

/-! ### Freezing, triggers and checks -/

theorem grows_setFreeze (k : Core) (c x) : k.Grows (k.setFreeze c x) := .of_unit (k.setFreeze_view c x) rfl rfl rfl
theorem grows_setPressureFreeze (k : Core) (x) : k.Grows (k.setPressureFreeze x) := .of_unit (k.setPressureFreeze_view x) rfl rfl rfl
theorem grows_freezeRing (k : Core) (c st) : k.Grows (k.freezeRing c st) := by
  unfold Core.freezeRing; dsimp only
  refine (grows_setFreeze k c { state := st, point := k.lastForwarded c }).trans ?_
  generalize k.setFreeze c { state := st, point := k.lastForwarded c } = a
  exact (grows_setTracker a c { a.tracker c with frozen := true } rfl (fun _ => rfl)).trans (grows_setDetector _ c _)
theorem grows_freezePressure (k : Core) (st) : k.Grows (k.freezePressure st) :=
  ⟨k.freezePressure_view st, rfl, or_self_ex _, fun _ h => h, fun _ => rfl, fun h => h, fun h => h, fun h => h⟩
theorem grows_handFreezeRecord (k : Core) (r) : k.Grows (k.handFreezeRecord r) := by
  unfold Core.handFreezeRecord; split
  · exact grows_handFreeze k _
  · exact .refl k
theorem grows_allFrozenStep (k : Core) : k.Grows k.allFrozenStep := by
  have h : k.Grows (if k.guard.pFreeze.state = .counting then k.freezePressure .withAcoustic else k) := by
    split
    · exact grows_freezePressure k _
    · exact .refl k
  unfold Core.allFrozenStep; dsimp only
  exact ((h.trans (grows_setRun _ _)).trans (grows_handFreezeRecord _ _)).trans (grows_raise _ _)
theorem grows_allFrozenTest (k : Core) : k.Grows k.allFrozenTest := by
  unfold Core.allFrozenTest; split
  · exact .refl k
  · exact grows_allFrozenStep k
theorem grows_freezeAtOnce (k : Core) (c st) : k.Grows (k.freezeAtOnce c st) := by
  unfold Core.freezeAtOnce; split
  · exact (grows_freezeRing k c st).trans (grows_allFrozenTest _)
  · exact .refl k
theorem grows_giveFreezeState (k : Core) (c) : k.Grows (k.giveFreezeState c) := by
  unfold Core.giveFreezeState; split <;> first | exact grows_freezeRing k c _ | exact grows_setFreeze k c _
theorem grows_setMonitor (k : Core) (m : Monitor) (h : m.means = k.monitor.means) : k.Grows (k.setMonitor m) :=
  .of_unit (k.setMonitor_view m h) rfl rfl rfl
theorem grows_setCheck (k : Core) (u : CheckUnit) (hs : u.select = k.check.select) (ht : u.strobe = k.check.strobe) : k.Grows (k.setCheck u) :=
  .of_unit (k.setCheck_view u hs ht) rfl rfl rfl
theorem grows_takeTrigger (k : Core) (t) : k.Grows (k.takeTrigger t) := by
  unfold Core.takeTrigger; dsimp only
  obtain ⟨a, ha⟩ : ∃ a, a = ((k.setMonitor { k.monitor with tt := k.streams.horizon, post := some (k.postContext t) }).setRun .postTrigger).handTrigger (k.triggerRecord t) := ⟨_, rfl⟩
  have h1 : k.Grows a := by
    rw [ha]; exact ((grows_setMonitor k { k.monitor with tt := k.streams.horizon, post := some (k.postContext t) } rfl).trans (grows_setRun _ _)).trans (grows_handTrigger _ _)
  rw [← ha]
  exact ((h1.trans (grows_forChans grows_giveFreezeState a)).trans (grows_setPressureFreeze _ _)).trans (grows_allFrozenTest _)
theorem grows_extraTrigger (k : Core) : k.Grows k.extraTrigger := by
  unfold Core.extraTrigger; split
  · exact grows_setMonitor k _ rfl
  · exact .refl k
theorem grows_setCheckState (k : Core) (st) : k.Grows (k.setCheckState st) := (grows_setCheck k { k.check with state := st } rfl rfl).trans (grows_markDirty _)
theorem grows_setQueuedTrigger (k : Core) (q) : k.Grows (k.setQueuedTrigger q) := grows_setCheck k _ rfl rfl
theorem grows_endCheck (k : Core) (r a q) : k.Grows (k.endCheck r a q) := by
  have h : ∀ es, k.Grows (if k.updatesPath r then k.writeRow es else k) := by
    intro es; split
    · exact grows_setGroup k _
    · exact .refl k
  unfold Core.endCheck; dsimp only
  exact ((h _).trans (grows_handCheck _ _)).trans (grows_setCheckState _ _)
theorem grows_finishCheck (k : Core) (r) : k.Grows (k.finishCheck r) := by
  unfold Core.finishCheck; dsimp only
  have h := (grows_endCheck k r none k.check.queued.isSome).trans (grows_forChans grows_leaveCheck _)
  split
  · exact (h.trans (grows_setQueuedTrigger _ _)).trans (grows_takeTrigger _ _)
  · exact h
theorem grows_queueTrigger (k : Core) (s) : k.Grows (k.queueTrigger s).1 := by
  unfold Core.queueTrigger; split <;> exact grows_setQueuedTrigger k _
theorem grows_abandonByTrigger (k : Core) (s) : k.Grows (k.abandonByTrigger s).1 := by
  unfold Core.abandonByTrigger; dsimp only
  have h := ((grows_endCheck k .abandoned (some .trigger) k.check.queued.isSome).trans (grows_setQueuedTrigger _ none)).trans (grows_forChans grows_leaveCheck _)
  split
  · exact h.trans (grows_takeTrigger _ _)
  · exact (h.trans (grows_takeTrigger _ _)).trans (grows_extraTrigger _)
theorem grows_dispatchTrigger (k : Core) (s) : k.Grows (k.dispatchTrigger s).1 := by
  unfold Core.dispatchTrigger; dsimp only
  split
  · split
    · split
      · exact grows_queueTrigger k s
      · exact grows_abandonByTrigger k s
    · exact grows_takeTrigger k _
  all_goals exact grows_extraTrigger k
theorem grows_markStalled (k : Core) (c) : k.Grows (k.markStalled c) := by
  unfold Core.markStalled; split
  · exact grows_setCheck k _ rfl rfl
  · exact .refl k
theorem grows_markDisabled (k : Core) (c) : k.Grows (k.markDisabled c) := by
  unfold Core.markDisabled; split
  · exact grows_setCheck k _ rfl rfl
  · exact .refl k

/-! ### Samples and blocks -/

theorem grows_setHits (k : Core) (x) : k.Grows (k.setHits x) := .of_unit (k.setHits_view x) rfl rfl rfl
theorem grows_openHit (k : Core) (c i t x b) : k.Grows (k.openHit c i t x b) := by
  unfold Core.openHit; dsimp only
  exact (((grows_setHits k _).trans (grows_offerArrival _ _)).trans (grows_requestHold _ _ _)).trans (grows_setDetectorState _ _ _)
theorem grows_takeArmed (k : Core) (c i e t x) : k.Grows (k.takeArmed c i e t x) := by
  unfold Core.takeArmed; dsimp only
  split
  · exact (grows_openHit k _ _ _ _ _).trans (grows_setPrev _ _ _)
  · exact (grows_setDetectorState k _ _).trans (grows_setPrev _ _ _)
theorem grows_enterGuard (k : Core) (c t g) : k.Grows (k.enterGuard c t g) := by
  unfold Core.enterGuard; split
  · exact grows_enterArmed k c _
  · exact grows_setDetectorState k c _
theorem grows_takeOpen (k : Core) (c i h t x) : k.Grows (k.takeOpen c i h t x) := by
  unfold Core.takeOpen; dsimp only
  split
  · exact ((grows_closeHit k _ _ _).trans (grows_enterArmed _ _ _)).trans (grows_takeArmed _ _ _ _ _ _)
  · have h2 := fun d => (grows_setDetectorState k c d).trans (grows_setPrev _ c (magnitude x))
    split
    · exact ((h2 _).trans (grows_closeHit _ _ _ _)).trans (grows_enterGuard _ _ _ _)
    · exact h2 _
theorem grows_takeGuard (k : Core) (c g t x) : k.Grows (k.takeGuard c g t x) := by
  unfold Core.takeGuard; dsimp only; split
  · exact (grows_setPrev k c _).trans (grows_enterArmed _ c _)
  · exact grows_setPrev k c _
theorem grows_watchSource (k : Core) (c b t) : k.Grows (k.watchSource c b t) := by
  unfold Core.watchSource; split
  · split
    · exact grows_finishCheck k _
    · split
      · exact (grows_setCheck k { k.check with t0 := some t } rfl rfl).trans (grows_setCheckState _ _)
      · exact .refl k
  · exact .refl k
theorem grows_takeInCheck (k : Core) (c ctx t x) : k.Grows (k.takeInCheck c ctx t x) := by
  unfold Core.takeInCheck; dsimp only
  exact ((grows_setDetectorState k c _).trans (grows_setPrev _ c _)).trans (grows_watchSource _ _ _ _)
theorem grows_takeSample (k : Core) (c i t x) : k.Grows (k.takeSample c i t x) := by
  unfold Core.takeSample; split
  · exact .refl k
  · exact grows_takeArmed k _ _ _ _ _
  · exact grows_takeOpen k _ _ _ _ _
  · split
    · exact (grows_enterArmed k c _).trans (grows_takeArmed _ _ _ _ _ _)
    · exact grows_takeGuard k _ _ _ _
  · exact grows_takeInCheck k _ _ _ _
theorem grows_takeSamples (c i xs) : ∀ (t : Nat) (kq : Core × Bool), kq.1.Grows (Core.takeSamples c i xs t kq).1 := by
  induction xs with
  | nil => intro t kq; exact .refl _
  | cons x xs ih => intro t kq; obtain ⟨k, q⟩ := kq; exact Core.Grows.trans (grows_takeSample k c i t x) (ih (t + 1) (k.takeSample c i t x, q && (k.detector c).isArmed && decide (magnitude x < ((k.takeSample c i t x).detector c).threshold)))
theorem grows_beginBlock (k : Core) (c i t x) : k.Grows (k.beginBlock c i t x) := by
  unfold Core.beginBlock; split
  · exact .refl k
  · exact grows_computeThreshold k c
  · split
    · exact grows_enterArmed k c _
    · exact .refl k
  · split
    · exact .refl k
    · exact grows_reportBlock k _ _ _
  · exact .refl k
theorem grows_takeBlock (k : Core) (c i t b) : k.Grows (k.takeBlock c i t b) := by
  have key : ∀ q, k.Grows (Core.takeSamples c i (samplesOf b) t (k.beginBlock c i t (sampleAt b 0), q)).1 :=
    fun q => (grows_beginBlock k c i t _).trans (grows_takeSamples c i _ t (_, q))
  unfold Core.takeBlock; dsimp only
  split
  · exact .refl k
  all_goals
    split
    · exact (key _).trans (grows_setDetector _ _ _)
    · exact key _
theorem grows_detectStage (k : Core) (c n st data) : k.Grows (k.detectStage c n st data) := by
  unfold Core.detectStage; split
  · exact grows_takeBlock k _ _ _ _
  · exact .refl k
theorem grows_reportSkip (k : Core) (c) : k.Grows (k.reportSkip c) := by
  unfold Core.reportSkip; split
  · exact .refl k
  · exact ((grows_closeHit k _ _ _).trans (grows_enterArmed _ _ _)).trans (grows_setPrev _ _ _)
  · exact (grows_setDetectorState k c _).trans (grows_setPrev _ _ _)
  · exact grows_setPrev k _ _
  · exact grows_setPrev k _ _

/-! ### The horizon handed on -/

theorem grows_finishIfPassed (k : Core) : k.Grows k.finishIfPassed := by
  unfold Core.finishIfPassed; split
  · exact grows_finishCheck k _
  · exact .refl k
theorem grows_setChoices (k : Core) (x) : k.Grows (k.setChoices x) := .of_unit (k.setChoices_view x) rfl rfl rfl
theorem grows_handOnHorizon (k : Core) : k.Grows k.handOnHorizon := by
  unfold Core.handOnHorizon; dsimp only
  have h : k.Grows k.choose.2 := grows_setChoices k _
  split
  · split
    · exact (h.trans (grows_finishIfPassed _)).trans (grows_takeArrivals _)
    · exact (h.trans (grows_takeArrivals _)).trans (grows_finishIfPassed _)
  · exact (grows_takeArrivals k).trans (grows_finishIfPassed _)

/-- A recomputed horizon: the new value stands, and handing it on grows the rest. -/
theorem recomputeHorizon_grows (k : Core) (found) : (k.setHorizon k.newHorizon).Grows (k.recomputeHorizon found) := by
  unfold Core.recomputeHorizon; dsimp only
  split
  · exact grows_handOnHorizon _
  · split
    · exact grows_finishIfPassed _
    · exact .refl _

/-! ### Reading growth -/

theorem Core.Grows.tracker_timed {k k' : Core} (h : k.Grows k') (c : Chan) : (k'.tracker c).timed = (k.tracker c).timed := by
  have := congrArg (fun s : Streams => look s.chan c) h.timed
  simpa [Streams.timed, Core.tracker] using this
theorem Core.Grows.lead {k k' : Core} (h : k.Grows k') : k'.streams.lead = k.streams.lead := via Streams.lead h.timed rfl rfl
theorem Core.Grows.horizon {k k' : Core} (h : k.Grows k') : k'.streams.horizon = k.streams.horizon := via Streams.horizon h.timed rfl rfl
theorem Core.Grows.count {k k' : Core} (h : k.Grows k') (c : Chan) : (k'.tracker c).count = (k.tracker c).count := via Tracker.count (h.tracker_timed c) rfl rfl
theorem Core.Grows.stalled {k k' : Core} (h : k.Grows k') (c : Chan) : (k'.tracker c).stalled = (k.tracker c).stalled := via Tracker.stalled (h.tracker_timed c) rfl rfl
theorem Core.Grows.faults {k k' : Core} (h : k.Grows k') (c : Chan) : (k'.tracker c).faults = (k.tracker c).faults := via Tracker.faults (h.tracker_timed c) rfl rfl
theorem Core.Grows.bit {k k' : Core} (h : k.Grows k') (b : Byte) (hb : k.unit.pending &&& b = b) : k'.unit.pending &&& b = b := by
  obtain ⟨x, hx⟩ := h.pending
  rw [hx]
  apply BitVec.eq_of_getLsbD_eq; intro i hi
  have := congrArg (fun y => BitVec.getLsbD y i) hb
  simp only [BitVec.getLsbD_and, BitVec.getLsbD_or] at this ⊢
  cases hi : b.getLsbD i <;> cases hj : k.unit.pending.getLsbD i <;> simp_all

end Sys2Proof.Machine
end

