-- ==== Sys2Proof/Laws/PerInstr.lean ====
section
/-! SUPPORT. One family over all commands: what a well-formed term says of the write it carries, in the codes of R152 and
R153. -/

namespace Sys2Proof.Laws.RowCodes

open Sys2Proof.Machine

/-- What its row says of a command's operands, in numbers: the command code, scope or target of a block 0 write (R152,
R153), the range of a sample time and of a ring index (R151); nothing for the others. -/
def admits : Instr → Prop
  | .apply w => commandCode (pageData w) = 1
  | .start w => commandCode (pageData w) = 2
  | .stop w => commandCode (pageData w) = 3
  | .trigger w => commandCode (pageData w) = 4
  | .thaw w => commandCode (pageData w) = 5
  | .check w => commandCode (pageData w) = 6
  | .releaseOne w => commandCode (pageData w) = 7 ∧ releaseScope (pageData w) = 1
  | .releaseChannel w => commandCode (pageData w) = 7 ∧ releaseScope (pageData w) = 2
  | .releaseAll w => commandCode (pageData w) = 7 ∧ releaseScope (pageData w) = 3
  | .snapshotChannels w => commandCode (pageData w) = 8 ∧ snapshotTarget (pageData w) = 1
  | .snapshotPaths w => commandCode (pageData w) = 8 ∧ snapshotTarget (pageData w) = 2
  | .clear w => commandCode (pageData w) = 9
  | .unknownCommand w => commandCode (pageData w) = 0 ∨ 9 < commandCode (pageData w)
  | .fireTimeout e | .normalEnd e | .guardEnd e | .cut e | .peakSettled e | .continuationEnd e =>
    e.time < 2 ^ 40 - 1 ∧ e.ringIndex < 2 ^ 20
  | .powerOn _ | .linkReset | .linkResetRelease | .acousticRingWrite _ | .pressureRingWrite _ | .hostRingWrite _
  | .forwardedWrite _ _ | .readRequest _ _ _ | .acknowledge _ | .memoryGrant | .upstreamCompletion _
  | .recordWriteCompletion _ | .answerWriteCompletion _ | .fetchReadCompletion _ | .snapshotWriteCompletion _
  | .discardedCompletion _ | .placement _ | .stallExpiry _ | .pulseStrobeEnd | .freezingWrite _ | .pressureFreeze _ =>
    True

/-- A term is well formed exactly when its operands are what its row says. -/
def Statement (i : Instr) : Prop := i.wellFormed = true ↔ admits i

theorem kind_code : ∀ b : Byte,
    (commandKind b = .apply ↔ b = 1) ∧ (commandKind b = .start ↔ b = 2) ∧ (commandKind b = .stop ↔ b = 3) ∧
    (commandKind b = .trigger ↔ b = 4) ∧ (commandKind b = .thaw ↔ b = 5) ∧ (commandKind b = .check ↔ b = 6) ∧
    (commandKind b = .release ↔ b = 7) ∧ (commandKind b = .snapshot ↔ b = 8) ∧ (commandKind b = .clear ↔ b = 9) ∧
    (commandKind b = .unknown ↔ b = 0 ∨ 9 < b) := by decide +kernel

theorem powerOn (w : BitVec 16) : Statement (.powerOn w) := iff_of_true rfl trivial

theorem linkReset : Statement .linkReset := iff_of_true rfl trivial

theorem linkResetRelease : Statement .linkResetRelease := iff_of_true rfl trivial

theorem acousticRingWrite (w : BlockWrite) : Statement (.acousticRingWrite w) := iff_of_true rfl trivial

theorem pressureRingWrite (w : BlockWrite) : Statement (.pressureRingWrite w) := iff_of_true rfl trivial

theorem hostRingWrite (w : BlockWrite) : Statement (.hostRingWrite w) := iff_of_true rfl trivial

theorem forwardedWrite (p : Port) (w : BlockWrite) : Statement (.forwardedWrite p w) := iff_of_true rfl trivial

theorem readRequest (p : Port) (a : BlockAddr) (n : Fin 8) : Statement (.readRequest p a n) := iff_of_true rfl trivial

theorem apply (w : PageWrite) : Statement (.apply w) := by
  simp [Statement, Instr.wellFormed, PageWrite.isKind, kind_code, admits]

theorem start (w : PageWrite) : Statement (.start w) := by
  simp [Statement, Instr.wellFormed, PageWrite.isKind, kind_code, admits]

theorem stop (w : PageWrite) : Statement (.stop w) := by
  simp [Statement, Instr.wellFormed, PageWrite.isKind, kind_code, admits]

theorem trigger (w : PageWrite) : Statement (.trigger w) := by
  simp [Statement, Instr.wellFormed, PageWrite.isKind, kind_code, admits]

theorem thaw (w : PageWrite) : Statement (.thaw w) := by
  simp [Statement, Instr.wellFormed, PageWrite.isKind, kind_code, admits]

theorem check (w : PageWrite) : Statement (.check w) := by
  simp [Statement, Instr.wellFormed, PageWrite.isKind, kind_code, admits]

theorem releaseOne (w : PageWrite) : Statement (.releaseOne w) := by
  simp [Statement, Instr.wellFormed, PageWrite.isKind, kind_code, admits]

theorem releaseChannel (w : PageWrite) : Statement (.releaseChannel w) := by
  simp [Statement, Instr.wellFormed, PageWrite.isKind, kind_code, admits]

theorem releaseAll (w : PageWrite) : Statement (.releaseAll w) := by
  simp [Statement, Instr.wellFormed, PageWrite.isKind, kind_code, admits]

theorem snapshotChannels (w : PageWrite) : Statement (.snapshotChannels w) := by
  simp [Statement, Instr.wellFormed, PageWrite.isKind, kind_code, admits]

theorem snapshotPaths (w : PageWrite) : Statement (.snapshotPaths w) := by
  simp [Statement, Instr.wellFormed, PageWrite.isKind, kind_code, admits]

theorem clear (w : PageWrite) : Statement (.clear w) := by
  simp [Statement, Instr.wellFormed, PageWrite.isKind, kind_code, admits]

theorem unknownCommand (w : PageWrite) : Statement (.unknownCommand w) := by
  simp [Statement, Instr.wellFormed, PageWrite.isKind, kind_code, admits]

theorem acknowledge (w : PageWrite) : Statement (.acknowledge w) := iff_of_true rfl trivial

theorem memoryGrant : Statement .memoryGrant := iff_of_true rfl trivial

theorem upstreamCompletion (w : Completion) : Statement (.upstreamCompletion w) := iff_of_true rfl trivial

theorem recordWriteCompletion (w : Completion) : Statement (.recordWriteCompletion w) := iff_of_true rfl trivial

theorem answerWriteCompletion (w : Completion) : Statement (.answerWriteCompletion w) := iff_of_true rfl trivial

theorem fetchReadCompletion (w : Completion) : Statement (.fetchReadCompletion w) := iff_of_true rfl trivial

theorem snapshotWriteCompletion (w : Completion) : Statement (.snapshotWriteCompletion w) := iff_of_true rfl trivial

theorem discardedCompletion (w : Completion) : Statement (.discardedCompletion w) := iff_of_true rfl trivial

theorem placement (w : BitVec 32) : Statement (.placement w) := iff_of_true rfl trivial

theorem stallExpiry (w : BitVec 32) : Statement (.stallExpiry w) := iff_of_true rfl trivial

theorem pulseStrobeEnd : Statement .pulseStrobeEnd := iff_of_true rfl trivial

theorem fireTimeout (w : SampleEvent) : Statement (.fireTimeout w) := by
  simp [Statement, Instr.wellFormed, SampleEvent.inRange, admits]

theorem normalEnd (w : SampleEvent) : Statement (.normalEnd w) := by
  simp [Statement, Instr.wellFormed, SampleEvent.inRange, admits]

theorem guardEnd (w : SampleEvent) : Statement (.guardEnd w) := by
  simp [Statement, Instr.wellFormed, SampleEvent.inRange, admits]

theorem cut (w : SampleEvent) : Statement (.cut w) := by
  simp [Statement, Instr.wellFormed, SampleEvent.inRange, admits]

theorem peakSettled (w : SampleEvent) : Statement (.peakSettled w) := by
  simp [Statement, Instr.wellFormed, SampleEvent.inRange, admits]

theorem continuationEnd (w : SampleEvent) : Statement (.continuationEnd w) := by
  simp [Statement, Instr.wellFormed, SampleEvent.inRange, admits]

theorem freezingWrite (w : BlockWrite) : Statement (.freezingWrite w) := iff_of_true rfl trivial

theorem pressureFreeze (w : BlockWrite) : Statement (.pressureFreeze w) := iff_of_true rfl trivial

end Sys2Proof.Laws.RowCodes
end

