-- ==== Sys2Proof/Laws/Stages.lean ====
section
/-! SUPPORT. What the stages of an acoustic write do: the placing of a write, a block taken while no check runs, the stall
tests and the recomputed times. -/

namespace Sys2Proof.Machine

/-! ### While no check runs -/

/-- Everything that a sample leaves as it is while no check runs. -/
def Core.calm (k : Core) : Core :=
  { k.aside with
    guard := k.guard.withoutHolds
    hits := Hits.reset
    group := Grouper.reset k.group.path
    choices := 0 }

theorem calm_of_aside {k k' : Core} (h : k'.aside = k.aside) : k'.calm = k.calm := by
  have hg : k'.guard = k.guard := via Core.guard h rfl rfl
  have hp : k'.group = k.group := via Core.group h rfl rfl
  unfold Core.calm; rw [h, hg, hp]

theorem calm_of_holds {k k' : Core} (h : k'.besideHolds = k.besideHolds) : k'.calm = k.calm :=
  via (fun x : Core => ({ x with hits := Hits.reset, group := Grouper.reset x.group.path, choices := 0 } : Core)) h rfl rfl

theorem calm_of_detectors {k k' : Core} (h : k'.besideDetectors = k.besideDetectors) : k'.calm = k.calm :=
  via (fun x : Core => ({ x with hits := Hits.reset, group := Grouper.reset x.group.path, choices := 0 } : Core)) h rfl rfl

theorem calm_of_events {k k' : Core} (h : k'.besideEvents = k.besideEvents) : k'.calm = k.calm :=
  via (fun x : Core => ({ x with hits := Hits.reset, guard := x.guard.withoutHolds, group := Grouper.reset x.group.path, choices := 0 } : Core)) h rfl rfl

theorem calm_setDetector (k : Core) (c d) : (k.setDetector c d).calm = k.calm := rfl
theorem calm_setPrev (k : Core) (c m) : (k.setPrev c m).calm = k.calm := rfl
theorem calm_setDetectorState (k : Core) (c m) : (k.setDetectorState c m).calm = k.calm := rfl
theorem calm_enterArmed (k : Core) (c m) : (k.enterArmed c m).calm = k.calm := rfl

theorem calm_openHit (k : Core) (c i t x b) : (k.openHit c i t x b).calm = k.calm := by
  unfold Core.openHit; dsimp only
  rw [calm_setDetectorState, calm_of_holds (requestHold_besideHolds _ _ _), calm_of_events (Core.offerArrival_besideEvents _ _)]; rfl
theorem calm_takeArmed (k : Core) (c i e t x) : (k.takeArmed c i e t x).calm = k.calm := by
  unfold Core.takeArmed; dsimp only; rw [calm_setPrev]; split
  · exact calm_openHit _ _ _ _ _ _
  · rfl
theorem calm_closeHit (k : Core) (h r t) : (k.closeHit h r t).calm = k.calm := calm_of_holds (Core.closeHit_besideHolds _ _ _ _)
theorem calm_enterGuard (k : Core) (c t g) : (k.enterGuard c t g).calm = k.calm := calm_of_detectors (enterGuard_besideDetectors k c t g)
theorem calm_takeOpen (k : Core) (c i h t x) : (k.takeOpen c i h t x).calm = k.calm := by
  unfold Core.takeOpen; dsimp only; split
  · rw [calm_takeArmed, calm_enterArmed, calm_closeHit]
  · split
    · rw [calm_enterGuard, calm_closeHit]; rfl
    · rfl
theorem calm_takeGuard (k : Core) (c g t x) : (k.takeGuard c g t x).calm = k.calm := by
  unfold Core.takeGuard; dsimp only; split <;> rfl

theorem calm_check {k k' : Core} (h : k'.calm = k.calm) : k'.check = k.check := via Core.check h rfl rfl

theorem calm_takeSample (k : Core) (c i t x) (h : k.check.state = .idle) : (k.takeSample c i t x).calm = k.calm := by
  unfold Core.takeSample; split
  · rfl
  · exact calm_takeArmed _ _ _ _ _ _
  · exact calm_takeOpen _ _ _ _ _ _
  · split
    · rw [calm_takeArmed, calm_enterArmed]
    · exact calm_takeGuard _ _ _ _ _
  · unfold Core.takeInCheck Core.watchSource; dsimp only
    rw [if_neg]
    · rfl
    · rintro ⟨_, h2⟩; exact absurd (h.symm.trans h2) (by decide)

theorem calm_takeSamples (c i xs) : ∀ (t : Nat) (kq : Core × Bool), kq.1.check.state = .idle → (Core.takeSamples c i xs t kq).1.calm = kq.1.calm := by
  induction xs with
  | nil => intro t kq _; rfl
  | cons x xs ih =>
    intro t kq h; obtain ⟨k, q⟩ := kq
    have h1 := calm_takeSample k c i t x h
    have h2 := ih (t + 1) (k.takeSample c i t x, q && (k.detector c).isArmed && decide (magnitude x < ((k.takeSample c i t x).detector c).threshold))
      (by show (k.takeSample c i t x).check.state = _; rw [calm_check h1]; exact h)
    exact h2.trans h1

theorem calm_growHold (k : Core) (c n h) : (k.growHold c n h).calm = k.calm := by
  unfold Core.growHold
  (repeat' split) <;> rfl

theorem calm_beginBlock (k : Core) (c i t x) : (k.beginBlock c i t x).calm = k.calm := by
  unfold Core.beginBlock; split
  · rfl
  · rfl
  · split <;> rfl
  · split
    · rfl
    · rename_i h _ _; cases hh : h.hold with
      | held g => exact calm_growHold _ _ _ _
      | noHold r => rfl
  · rfl

theorem calm_takeBlock (k : Core) (c i t b) (h : k.check.state = .idle) : (k.takeBlock c i t b).calm = k.calm := by
  have hb := calm_beginBlock k c i t (sampleAt b 0)
  have key : ∀ q, (Core.takeSamples c i (samplesOf b) t (k.beginBlock c i t (sampleAt b 0), q)).1.calm = k.calm := by
    intro q
    exact (calm_takeSamples c i _ t (_, q) (by show (k.beginBlock c i t (sampleAt b 0)).check.state = _; rw [calm_check hb]; exact h)).trans hb
  unfold Core.takeBlock; dsimp only
  split
  · rfl
  all_goals
    split
    · exact (calm_setDetector _ _ _).trans (key _)
    · exact key _

/-! ### Stage 1 -/

theorem reportSkip_beside (k : Core) (c) : (k.reportSkip c).besideDetectors = k.besideDetectors := by
  unfold Core.reportSkip; split <;> simp

/-- A placed write: what stage 1 makes of the tracker, and what it leaves as it is. -/
structure Core.Placed (k k1 : Core) (c : Chan) (n gap : Nat) : Prop where
  tracker  : k1.tracker c = { k.tracker c with
    state := .tracking
    origin := if (k.tracker c).state = .waiting then some n else (k.tracker c).origin
    expected := (n + 1) % k.ringSize c
    count := (k.tracker c).count + gap
    faults := if 0 < gap then min ((k.tracker c).faults + 1) 65535 else (k.tracker c).faults }
  others   : ∀ j, j ≠ c → k1.tracker j = k.tracker j
  pressure : k1.streams.pressure = k.streams.pressure
  times    : k1.streams.lead = k.streams.lead ∧ k1.streams.horizon = k.streams.horizon
  beside   : k1.besideDetectors = (k.setStreams k1.streams).besideDetectors
  pending  : ∃ x, k1.unit.pending = k.unit.pending ||| x
  fault    : 0 < gap → k1.unit.pending &&& 64 = 64

theorem or64 (x y : Byte) (h : x &&& 64 = 64) : (x ||| y) &&& 64 = 64 := by
  apply BitVec.eq_of_getLsbD_eq; intro i hi
  have := congrArg (fun y => BitVec.getLsbD y i) h
  simp only [BitVec.getLsbD_and, BitVec.getLsbD_or] at this ⊢
  cases hi : (64 : Byte).getLsbD i <;> cases hj : x.getLsbD i <;> simp_all

theorem byte64 : ∀ x : Byte, (x ||| 64) &&& 64 = 64 := by decide +kernel

theorem setTracker_besideDetectors (k : Core) (c t) : (k.setTracker c t).besideDetectors = (k.setStreams (k.setTracker c t).streams).besideDetectors := rfl

theorem position_spec (k : Core) (c : Chan) (n gap : Nat) (h : k.PlacedAt c n gap) :
    ∃ k1, k.position c n true = (k1, some (32 * ((k.tracker c).count + gap))) ∧ k.Placed k1 c n gap := by
  cases hs : (k.tracker c).state with
  | idle => exact absurd hs h.runs
  | waiting =>
    obtain ⟨rfl, h0⟩ := h.waiting hs
    refine ⟨k.setOrigin c n, ?_, ?_⟩
    · unfold Core.position positionOf; dsimp only; rw [hs]; dsimp only; rw [if_pos rfl, h0]
    · refine ⟨?_, ?_, rfl, ⟨rfl, rfl⟩, rfl, or_self_ex _, fun h => absurd h (lt_irrefl _)⟩
      · unfold Core.setOrigin; rw [Core.tracker_setTracker_self]; simp [hs, h0]
      · intro j hj; unfold Core.setOrigin; rw [Core.tracker_setTracker, if_neg (Ne.symm hj)]
  | tracking =>
    obtain ⟨hg, hg2, hlim⟩ := h.tracking hs
    by_cases hz : gap = 0
    · subst hz
      refine ⟨k.setExpected c ((n + 1) % k.ringSize c), ?_, ?_⟩
      · unfold Core.position positionOf; dsimp only; rw [hs]; dsimp only; rw [if_pos rfl]
        unfold trackPosition distance; dsimp only
        rw [if_neg (by unfold maxCount; omega), if_pos hg.symm]; rfl
      · refine ⟨?_, ?_, rfl, ⟨rfl, rfl⟩, rfl, or_self_ex _, fun h => absurd h (lt_irrefl _)⟩
        · unfold Core.setExpected; rw [Core.tracker_setTracker_self]; simp [hs]
        · intro j hj; unfold Core.setExpected; rw [Core.tracker_setTracker, if_neg (Ne.symm hj)]
    · have hpos : 0 < gap := by omega
      have hlt : gap < k.ringSize c / 2 := by omega
      obtain ⟨a, ha⟩ : ∃ a, a = (k.acousticFault c .skip n (some gap)).reportSkip c := ⟨_, rfl⟩
      have hf : ∃ q p d, k.acousticFault c .skip n (some gap) = { k with
          streams := (k.countFault (.acoustic c)).streams
          writer := { k.writer with queue := q }
          unit := { k.unit with pending := p, dirty := d } } ∧ p = k.unit.pending ||| 64 := by
        refine ⟨_, _, _, raiseFault_eq k _, rfl⟩
      obtain ⟨q, p, d, hf, hp⟩ := hf
      have hat : ∀ j, a.tracker j = (k.countFault (.acoustic c)).tracker j := by
        intro j
        have : ((k.acousticFault c .skip n (some gap)).reportSkip c).streams = (k.acousticFault c .skip n (some gap)).streams :=
          via Core.streams (reportSkip_beside (k.acousticFault c .skip n (some gap)) c) rfl rfl
        unfold Core.tracker; rw [ha, this, hf]
      have has : a.streams = (k.countFault (.acoustic c)).streams := by
        have : ((k.acousticFault c .skip n (some gap)).reportSkip c).streams = (k.acousticFault c .skip n (some gap)).streams :=
          via Core.streams (reportSkip_beside (k.acousticFault c .skip n (some gap)) c) rfl rfl
        rw [ha, this, hf]
      have hab : a.besideDetectors = (k.setStreams a.streams).besideDetectors := by
        rw [has, ha, reportSkip_beside, hf]; rfl
      have hap : ∃ x, a.unit.pending = (k.unit.pending ||| 64) ||| x := by
        obtain ⟨x, hx⟩ := (grows_reportSkip (k.acousticFault c .skip n (some gap)) c).pending
        exact ⟨x, by rw [ha, hx, hf, hp]⟩
      have hsz : a.ringSize c = k.ringSize c := by
        have : a.unit.settings = k.unit.settings := via (fun k : Core => k.unit.settings) hab rfl rfl
        unfold Core.ringSize Core.ringEntry Core.layoutEntry; rw [this]
      have hct := countFault_tracker k c
      refine ⟨(a.setCount c ((k.tracker c).count + gap)).setExpected c ((n + 1) % k.ringSize c), ?_, ?_⟩
      · unfold Core.position positionOf; dsimp only; rw [hs]; dsimp only; rw [if_pos rfl]
        unfold trackPosition distance; dsimp only
        rw [if_neg (by unfold maxCount; omega), ← hg, if_neg hz, if_pos hlt]
        dsimp only
        unfold Core.takeSkip; dsimp only
        rw [← ha, if_neg (by unfold maxCount; omega)]
        rw [hsz]
      · refine ⟨?_, ?_, ?_, ?_, ?_, ?_, ?_⟩
        · unfold Core.setExpected Core.setCount
          rw [Core.tracker_setTracker_self, Core.tracker_setTracker_self, hat, hct, if_pos rfl]
          simp [hs, hpos]
        · intro j hj
          unfold Core.setExpected Core.setCount
          rw [Core.tracker_setTracker, if_neg (Ne.symm hj), Core.tracker_setTracker, if_neg (Ne.symm hj), hat, hct, if_neg (Ne.symm hj)]
        · show a.streams.pressure = _; rw [has]; rfl
        · constructor
          · show a.streams.lead = _; rw [has]; rfl
          · show a.streams.horizon = _; rw [has]; rfl
        · have : ((a.setCount c ((k.tracker c).count + gap)).setExpected c ((n + 1) % k.ringSize c)).besideDetectors =
              (a.setStreams ((a.setCount c ((k.tracker c).count + gap)).setExpected c ((n + 1) % k.ringSize c)).streams).besideDetectors := rfl
          rw [this]
          exact via (fun x : Core => ({ x with streams := ((a.setCount c ((k.tracker c).count + gap)).setExpected c ((n + 1) % k.ringSize c)).streams } : Core)) hab rfl rfl
        · obtain ⟨x, hx⟩ := hap
          exact ⟨64 ||| x, by rw [← BitVec.or_assoc]; exact hx⟩
        · intro _
          obtain ⟨x, hx⟩ := hap
          show a.unit.pending &&& 64 = 64
          rw [hx]; exact or64 _ _ (byte64 _)

/-! ### Stage 4: the stall tests -/

/-- What a stall test leaves as it is, and what it can only raise. -/
structure Core.Tested (k k' : Core) : Prop where
  view    : k'.view = k.view
  lead    : k'.streams.lead = k.streams.lead
  horizon : k'.streams.horizon = k.streams.horizon
  pending : ∃ x, k'.unit.pending = k.unit.pending ||| x
  faults  : ∀ c, min (k.tracker c).faults 65535 ≤ (k'.tracker c).faults
  frozen  : ∀ c, (k.tracker c).frozen = true → (k'.tracker c).frozen = true
  pfrozen : k.streams.pressure.frozen = true → k'.streams.pressure.frozen = true
  trigger : k.writer.unplacedTrigger = true → k'.writer.unplacedTrigger = true
  freeze  : k.writer.unplacedFreeze = true → k'.writer.unplacedFreeze = true
  check   : k.check.state = .idle → k'.check.state = .idle

theorem Core.Tested.refl (k : Core) : k.Tested k :=
  ⟨rfl, rfl, rfl, or_self_ex _, fun _ => Nat.min_le_left _ _, fun _ h => h, fun h => h, fun h => h, fun h => h, fun h => h⟩

theorem Core.Tested.trans {a b c : Core} (h : a.Tested b) (g : b.Tested c) : a.Tested c := by
  obtain ⟨x, hx⟩ := h.pending
  obtain ⟨y, hy⟩ := g.pending
  refine ⟨g.view.trans h.view, g.lead.trans h.lead, g.horizon.trans h.horizon, ⟨x ||| y, by rw [hy, hx, BitVec.or_assoc]⟩, fun c => ?_, fun c e => g.frozen c (h.frozen c e),
    fun e => g.pfrozen (h.pfrozen e), fun e => g.trigger (h.trigger e), fun e => g.freeze (h.freeze e), fun e => g.check (h.check e)⟩
  have := h.faults c; have := g.faults c; omega

theorem Core.Tested.of_grows {k k' : Core} (h : k.Grows k') (hc : k'.check = k.check) : k.Tested k' :=
  ⟨h.view, h.lead, h.horizon, h.pending, fun c => by rw [h.faults c]; exact Nat.min_le_left _ _, h.frozen, h.pfrozen, h.trigger, h.freeze, fun e => by rw [hc]; exact e⟩

theorem freezePressure_check (k : Core) (st) : (k.freezePressure st).check = k.check := rfl

theorem allFrozenTest_check (k : Core) : k.allFrozenTest.check = k.check :=
  allFrozenTest_keeps Core.check (fun _ _ => rfl) (fun _ _ => rfl) (fun _ _ => rfl) (fun _ _ => rfl) k

theorem freezeAtOnce_check (k : Core) (c st) : (k.freezeAtOnce c st).check = k.check := by
  unfold Core.freezeAtOnce; split
  · rw [allFrozenTest_check]; rfl
  · rfl

theorem tested_setStalled (k : Core) (c b) : k.Tested (k.setStalled c b) := by
  have ht : ∀ j, ((k.setStalled c b).tracker j) = if c = j then { k.tracker j with stalled := b } else k.tracker j := by
    intro j; unfold Core.setStalled; rw [Core.tracker_setTracker]; split
    · subst_vars; rfl
    · rfl
  refine ⟨k.setStalled_view c b, rfl, rfl, or_self_ex _, fun j => ?_, fun j e => ?_, fun h => h, fun h => h, fun h => h, fun h => h⟩
  · rw [ht]; split <;> exact Nat.min_le_left _ _
  · rw [ht]; split <;> exact e

theorem tested_raiseFault (k : Core) (i) : k.Tested (k.raiseFault i) := by
  have hw : (k.raiseFault i).writer.unplacedTrigger = k.writer.unplacedTrigger ∧ (k.raiseFault i).writer.unplacedFreeze = k.writer.unplacedFreeze := by
    rw [raiseFault_eq]; exact ⟨rfl, rfl⟩
  have hs : (k.raiseFault i).streams = (k.countFault i.place).streams := by rw [raiseFault_eq]
  have hc : (k.raiseFault i).check = k.check := by rw [raiseFault_eq]
  have hp : (k.raiseFault i).unit.pending = k.unit.pending ||| 64 := by rw [raiseFault_eq]
  have ht : ∀ j, (k.raiseFault i).tracker j = (k.countFault i.place).tracker j := by intro j; unfold Core.tracker; rw [hs]
  refine ⟨k.raiseFault_view i, ?_, ?_, ⟨64, hp⟩, fun j => ?_, fun j e => ?_, fun e => ?_, fun e => by rw [hw.1]; exact e, fun e => by rw [hw.2]; exact e, fun e => by rw [hc]; exact e⟩
  · rw [hs]; cases i.place <;> rfl
  · rw [hs]; cases i.place <;> rfl
  · rw [ht]
    cases i.place with
    | acoustic c => rw [countFault_tracker]; split <;> (try dsimp only) <;> omega
    | pressure => exact Nat.min_le_left _ _
    | elsewhere => exact Nat.min_le_left _ _
  · rw [ht]
    cases i.place with
    | acoustic c => rw [countFault_tracker]; split <;> exact e
    | pressure => exact e
    | elsewhere => exact e
  · rw [hs]; cases i.place <;> exact e

theorem markStalled_state (k : Core) (c) : (k.markStalled c).check.state = k.check.state := by
  unfold Core.markStalled; split <;> rfl

theorem tested_stallChannel (k : Core) (c) : k.Tested (k.stallChannel c) := by
  unfold Core.stallChannel; dsimp only
  obtain ⟨a, ha⟩ : ∃ a, a = (k.setStalled c true).markDirty.raiseFault
    { kind := .stalled, place := .acoustic c, index := none, expected := none, distance := none, time := some (k.tracker c).time, lead := some k.streams.lead, addr := none } := ⟨_, rfl⟩
  have h1 : k.Tested a := by
    rw [ha]; exact ((tested_setStalled k c true).trans (.of_grows (grows_markDirty _) rfl)).trans (tested_raiseFault _ _)
  have g := grows_markStalled a c
  have h2 : a.Tested (a.markStalled c) :=
    ⟨g.view, g.lead, g.horizon, g.pending, fun c => by rw [g.faults c]; exact Nat.min_le_left _ _, g.frozen, g.pfrozen, g.trigger, g.freeze, fun e => by rw [markStalled_state]; exact e⟩
  rw [← ha]
  exact (h1.trans h2).trans (.of_grows (grows_freezeAtOnce _ _ _) (freezeAtOnce_check _ _ _))

theorem tested_stallTest (k : Core) (c) : k.Tested (k.stallTest c) := by
  unfold Core.stallTest; dsimp only
  split
  · split
    · split
      · exact (tested_setStalled k c false).trans (.of_grows (grows_markDirty _) rfl)
      · exact .refl k
    · split
      · exact tested_stallChannel k c
      · exact .refl k
  · exact .refl k

theorem tested_stallTests (k : Core) : k.Tested k.stallTests :=
  forChans_rel .refl (fun _ _ _ e => e.trans (tested_stallTest _ _)) k

/-- The stalled flag of every channel after the stall tests (R16, R17). -/
theorem stallTests_stalled (k : Core) (j : Chan) : (k.stallTests.tracker j).stalled =
    if k.enabled j then
      if (k.tracker j).stalled then !decide (k.streams.lead ≤ (k.tracker j).time + 32 * (k.global.lagLimit / 2))
      else decide ((k.tracker j).time + 32 * k.global.lagLimit < k.streams.lead)
    else (k.tracker j).stalled := by
  have ff : ∀ (k : Core) (c j : Chan) st, ((k.freezeAtOnce c st).tracker j).stalled = (k.tracker j).stalled := fun k c j st => (grows_freezeAtOnce k c st).stalled j
  have fm : ∀ (k : Core) (c j : Chan), ((k.markStalled c).tracker j).stalled = (k.tracker j).stalled := fun k c j => (grows_markStalled k c).stalled j
  have fr : ∀ (k : Core) i (j : Chan), ((k.raiseFault i).tracker j).stalled = (k.tracker j).stalled := by
    intro k i j
    have hs : (k.raiseFault i).streams = (k.countFault i.place).streams := by rw [raiseFault_eq]
    have : (k.raiseFault i).tracker j = (k.countFault i.place).tracker j := by unfold Core.tracker; rw [hs]
    rw [this]; cases i.place with
    | acoustic c => rw [countFault_tracker]; split <;> rfl
    | pressure => rfl
    | elsewhere => rfl
  have fs : ∀ (k : Core) (c j : Chan) b, ((k.setStalled c b).tracker j).stalled = if c = j then b else (k.tracker j).stalled := by
    intro k c j b; unfold Core.setStalled; rw [Core.tracker_setTracker]; split <;> rfl
  have fd : ∀ (k : Core) (j : Chan), (k.markDirty.tracker j).stalled = (k.tracker j).stalled := fun _ _ => rfl
  have key : ∀ (k : Core) (c j : Chan), ((k.stallTest c).tracker j).stalled = if c = j then
      (if k.enabled c then
        if (k.tracker c).stalled then !decide (k.streams.lead ≤ (k.tracker c).time + 32 * (k.global.lagLimit / 2))
        else decide ((k.tracker c).time + 32 * k.global.lagLimit < k.streams.lead)
      else (k.tracker c).stalled) else (k.tracker j).stalled := by
    intro k c j
    unfold Core.stallTest Core.stallChannel; dsimp only
    by_cases hc : c = j
    · subst hc
      rw [if_pos rfl]
      split
      · split
        · split
          · rename_i h; rw [fd, fs, if_pos rfl]; simp [h]
          · rename_i h h2; simp [h2, h]
        · split
          · rename_i h; rw [ff, fm, fr, fd, fs, if_pos rfl]; simp [h]
          · rename_i h h2; simp [h2, h]
      · rfl
    · rw [if_neg hc]
      split
      · split
        · split
          · rw [fd, fs, if_neg hc]
          · rfl
        · split
          · rw [ff, fm, fr, fd, fs, if_neg hc]
          · rfl
      · rfl
  exact forChans_at (get := fun k j => (k.tracker j).stalled) (f := Core.stallTest) (R := Core.Tested)
    (g := fun k j => if k.enabled j then
      if (k.tracker j).stalled then !decide (k.streams.lead ≤ (k.tracker j).time + 32 * (k.global.lagLimit / 2))
      else decide ((k.tracker j).time + 32 * k.global.lagLimit < k.streams.lead)
    else (k.tracker j).stalled) .refl (fun _ _ _ e => e.trans (tested_stallTest _ _))
    (fun k c j hj => by rw [key, if_neg (fun e => hj e.symm)])
    (fun k k' j hr he => by
      have he : (k'.tracker j).stalled = (k.tracker j).stalled := he
      have e1 : k'.enabled j = k.enabled j := by unfold Core.enabled; rw [Core.view_settingsOf hr.view]
      have e2 : (k'.tracker j).time = (k.tracker j).time := by
        have := Core.view_pos hr.view j
        unfold Tracker.time; rw [show (k'.tracker j).count = (k.tracker j).count from congrArg (fun p : Pos => p.2.2.2) this]
      show ((k'.stallTest j).tracker j).stalled = _
      rw [key, if_pos rfl, e1, e2, he, hr.lead, Core.view_global hr.view]) k j

end Sys2Proof.Machine
end

