-- ==== Sys2Proof/Tests/Slice0.lean ====
section
/-! SUPPORT. Tests: ill-formed terms that WellFormed refuses; a state and operands that meet the hypotheses of each
statement, clause by clause at the ends of their ranges; and small one-step tests. -/

set_option Elab.async false

namespace Sys2Proof.Machine

/-! ### Small states -/

/-- A block 0 write with a command code and further fields. -/
def cmd (code : Nat) (fields : List Block) : PageWrite := { data := joinFields (putField 4 1 code :: fields), mask := fullMask }

def tGlobal : GlobalSettings :=
  { GlobalSettings.absent with
    minMembers := 1, window := 4, tenure := 2, stallLimit := 100, attentionMark := 1, resumeMark := 4, lagLimit := 4
    slack := 10, armLevel := 100, burstDrop := 50, enabledCauses := 255 }

def tChannel : ChannelSettings :=
  { enabled := true, mode := .fixed, threshold := 100, margin := 16, preBlocks := 2, holdMode := .onRead, peakWin := 5,
    closeWin := 10, guardLen := 20, maxLen := 4 }

/-- Ring 0 at block 1024, ring 1 at 2048, the pressure ring at 3072, the record ring at 3136. -/
def tSettings : Settings :=
  { global := tGlobal
    layout := put (put (put (put (Vector.replicate 34 LayoutEntry.absent) 0 { base := 1024, log := 10, valid := true })
      1 { base := 2048, log := 10, valid := true }) 32 { base := 3072, log := 6, valid := true })
      33 { base := 3136, log := 6, valid := true }
    channels := put (Vector.replicate 32 ChannelSettings.absent) 0 tChannel }

/-- The blocks after power-on with these settings active, in a run state. -/
def tCore (run : RunState) : Core :=
  { Core.reset pathReset 0 with unit := { CommandUnit.reset with settings := some tSettings, applied := true, run := run } }

def tState (k : Core) : State := { State.poweredOn 0 with core := k }

def tTracker (st : TrackerState) (expected count : Nat) : Tracker :=
  { Tracker.reset with state := st, expected := expected, count := count }

/-- Channel 0 in a tracker state, the run LISTENING. -/
def tTracked (t : Tracker) : Core := (tCore .listening).setTracker 0 t

def tPressure (t : PressureTracker) : Core := (tCore .listening).setPressureTracker t

def tPost : PostTrigger := { source := .command, freezeTime := 64, tp := 0, freezeNumber := 3, extra := 0 }

/-- Ring 0 and the pressure ring COUNTING after a trigger, channel 0 tracking. -/
def tCounting (count : Nat) : Core :=
  let k := (tCore .postTrigger).setTracker 0 (tTracker .tracking 5 count)
  (k.setMonitor { k.monitor with post := some tPost }).setGuard
    { k.guard with
      freeze := put k.guard.freeze 0 { state := .counting, point := none }
      pFreeze := { state := .counting, point := none } }

def tDetector (st : DetectorState) : Core := (tCore .listening).setDetectorState 0 st

def tHit : HitContext :=
  (tCore .listening).openContext 0 0 100 200 ((tCore .listening).openFlags 0 false) 0 (.noHold .noMode)

def tSample (t : Nat) (x : BitVec 16) : SampleEvent := { chan := 0, ringIndex := 0, time := t, sample := x }

def tLines : Vector Block 8 := Vector.replicate 8 0

def tWrite (addr : BlockAddr) (mask : Mask) : BlockWrite := { addr := addr, data := 0, mask := mask }

/-- The state after a command, or the state before where it gives none. -/
def after (i : Instr) (s : State) : State :=
  match step { s with pending := [i] } with
  | .next t => t
  | .fault _ | .refused _ => s

theorem ready_of (k : Core) (p : Port) (h : k.acquisitionOpen = true) : (tState k).Ready p :=
  { line := rfl
    link := by cases p <;> rfl
    room := by cases p <;> exact Nat.zero_lt_succ _
    settled := by cases p <;> rfl
    isOpen := fun _ => h }

theorem placed_of {k : Core} {c : Chan} {n gap : Nat}
    (h : ((k.tracker c).state = .waiting → gap = 0 ∧ (k.tracker c).count = 0) ∧
      ((k.tracker c).state = .tracking →
        gap = (n + k.ringSize c - (k.tracker c).expected) % k.ringSize c ∧ (gap = 0 ∨ gap < k.ringSize c / 2) ∧
          (k.tracker c).count + gap < 2 ^ 35 - 1) ∧ (k.tracker c).state ≠ .idle) : k.PlacedAt c n gap :=
  { waiting := h.1, tracking := h.2.1, runs := h.2.2 }

theorem pressurePlaced_of {k : Core} {n gap : Nat}
    (h : (k.streams.pressure.state = .waiting → gap = 0 ∧ k.streams.pressure.count = 0) ∧
      (k.streams.pressure.state = .tracking →
        gap = (n + k.pressureEntry.size - k.streams.pressure.expected) % k.pressureEntry.size ∧
          (gap = 0 ∨ gap < k.pressureEntry.size / 2) ∧ k.streams.pressure.count + gap < 2 ^ 32 - 1) ∧
      k.streams.pressure.state ≠ .idle) : k.PressurePlacedAt n gap :=
  { waiting := h.1, tracking := h.2.1, runs := h.2.2 }

theorem tDetector_state (st : DetectorState) : ((tState (tDetector st)).core.detector 0).state = st := by
  simp [tState, tDetector]

/-! ### WellFormed refuses -/

theorem test_wf_codes : (Instr.apply (cmd 2 [])).wellFormed = false ∧ (Instr.start (cmd 1 [])).wellFormed = false ∧
    (Instr.stop (cmd 4 [])).wellFormed = false ∧ (Instr.trigger (cmd 3 [])).wellFormed = false ∧
    (Instr.thaw (cmd 6 [])).wellFormed = false ∧ (Instr.check (cmd 5 [])).wellFormed = false ∧
    (Instr.clear (cmd 8 [])).wellFormed = false ∧ (Instr.unknownCommand (cmd 9 [])).wellFormed = false ∧
    (Instr.unknownCommand (cmd 1 [])).wellFormed = false := by decide +kernel

theorem test_wf_scopes : (Instr.releaseOne (cmd 7 [putField 5 1 2])).wellFormed = false ∧
    (Instr.releaseOne (cmd 8 [putField 5 1 1])).wellFormed = false ∧
    (Instr.releaseChannel (cmd 7 [putField 5 1 3])).wellFormed = false ∧
    (Instr.releaseChannel (cmd 6 [putField 5 1 2])).wellFormed = false ∧
    (Instr.releaseAll (cmd 7 [putField 5 1 0])).wellFormed = false ∧
    (Instr.releaseAll (cmd 9 [putField 5 1 3])).wellFormed = false ∧
    (Instr.snapshotChannels (cmd 8 [putField 5 1 2])).wellFormed = false ∧
    (Instr.snapshotChannels (cmd 7 [putField 5 1 1])).wellFormed = false ∧
    (Instr.snapshotPaths (cmd 8 [putField 5 1 1])).wellFormed = false ∧
    (Instr.snapshotPaths (cmd 9 [putField 5 1 2])).wellFormed = false := by decide +kernel

theorem test_wf_samples : (Instr.fireTimeout (tSample (2 ^ 40 - 1) 0)).wellFormed = false ∧
    (Instr.normalEnd (tSample (2 ^ 40 - 1) 0)).wellFormed = false ∧
    (Instr.guardEnd (tSample (2 ^ 40 - 1) 0)).wellFormed = false ∧ (Instr.cut (tSample (2 ^ 40 - 1) 0)).wellFormed = false ∧
    (Instr.peakSettled (tSample (2 ^ 40 - 1) 0)).wellFormed = false ∧
    (Instr.continuationEnd (tSample (2 ^ 40 - 1) 0)).wellFormed = false ∧
    (Instr.cut { tSample 0 0 with ringIndex := 2 ^ 20 }).wellFormed = false ∧
    (Instr.cut { tSample (2 ^ 40 - 2) 0 with ringIndex := 2 ^ 20 - 1 }).wellFormed = true := by decide +kernel

theorem test_wf_accepts : (Instr.apply (cmd 1 [])).wellFormed = true ∧ (Instr.unknownCommand (cmd 10 [])).wellFormed = true ∧
    (Instr.unknownCommand (cmd 0 [])).wellFormed = true ∧ (Instr.releaseOne (cmd 7 [putField 5 1 1])).wellFormed = true ∧
    (Instr.snapshotPaths (cmd 8 [putField 5 1 2])).wellFormed = true := by decide +kernel

/-- An excluded byte of a command block is 0: with the code masked out, no command is named. -/
theorem test_wf_mask : (Instr.unknownCommand { cmd 2 [] with mask := 0xF }).wellFormed = true := by decide +kernel

/-! ### States that meet the hypotheses: the step and the commands -/

theorem witness_StepAcceptsOrIdles :
    let s := tState (tCore .listening)
    let q := { s with host := { s.host with link := [.read 5 7] } }
    (s.pending = [] ∧ s.canAccept .acquisition = false ∧ s.canAccept .host = false) ∧
    (q.pending = [] ∧ q.canAccept .acquisition = false ∧ q.linkReset = false ∧ q.host.link = [.read 5 7] ∧
      q.host.accepted.length < 16 ∧ q.host.settled = true) := by decide +kernel

theorem witness_ClearResetsRun : (tState (tCore .postTrigger)).Ready .host ∧ commandKind (commandCode (pageData (cmd 9 []))) = .clear :=
  ⟨ready_of _ _ rfl, by decide +kernel⟩

/-- A command unit with an answer due. -/
def tBusy : Core := (tCore .stopped).formAnswer (answerTo 0 .done .plain)

theorem witness_BusyRefuses : (tState tBusy).Ready .host ∧ tBusy.unit.busy = true ∧
    (∀ code ∈ [0, 1, 8, 10, 255], commandKind (commandCode (pageData (cmd code []))) ≠ .clear) ∧
    Instr.start (cmd 2 []) ∈ commandsOf (cmd 2 []) := ⟨ready_of _ _ rfl, by decide +kernel⟩

/-- The unplaced marks of a core. -/
def Core.marked (k : Core) (t f c : Bool) : Core :=
  k.setWriter { k.writer with unplacedTrigger := t, unplacedFreeze := f, unplacedCheck := c }

/-- Every clause of RefusedIsAnswered, at the ends of its ranges. -/
theorem witness_RefusedIsAnswered :
    (∀ r, (tState (tCore r)).Ready .host ∧ (tCore r).unit.busy = false) ∧
    (commandCode (pageData (cmd 0 [])) = 0 ∧ 9 < (commandCode (pageData (cmd 10 []))).toNat ∧
      commandCode (pageData (cmd 255 [])) = 255) ∧
    (commandKind (commandCode (pageData (cmd 2 []))) = .start ∧ (Core.reset pathReset 0).unit.applied = false ∧
      (Core.reset pathReset 0).unit.run = .stopped ∧ (tCore .stopped).unit.applied = true ∧
      ((tCore .stopped).marked true false false).writer.unplacedTrigger = true ∧
      ((tCore .stopped).marked false true false).writer.unplacedFreeze = true) ∧
    (commandKind (commandCode (pageData (cmd 3 []))) = .stop ∧ commandKind (commandCode (pageData (cmd 4 []))) = .trigger ∧
      commandKind (commandCode (pageData (cmd 5 []))) = .thaw) ∧
    (∀ w ∈ [cmd 6 [putField 5 1 32, putField 6 2 16], cmd 6 [putField 5 1 31, putField 6 2 15],
        cmd 6 [putField 5 1 0, putField 6 2 4096]], commandKind (commandCode (pageData w)) = .check ∧
      ¬(checkSource (pageData w) < 32 ∧ 16 ≤ checkWindow (pageData w) ∧ checkWindow (pageData w) ≤ 4095)) ∧
    (∀ w ∈ [cmd 6 [putField 5 1 31, putField 6 2 16], cmd 6 [putField 5 1 1, putField 6 2 4095]],
      checkSource (pageData w) < 32 ∧ 16 ≤ checkWindow (pageData w) ∧ checkWindow (pageData w) ≤ 4095 ∧
      ∀ c : Chan, c.val = checkSource (pageData w) →
        ¬((tCore .listening).enabled c = true ∧ ((tCore .listening).tracker c).stalled = false)) ∧
    (∀ w ∈ [cmd 7 [putField 5 1 1, putField 6 1 64], cmd 7 [putField 5 1 2, putField 7 1 32], cmd 7 [putField 5 1 0],
        cmd 7 [putField 5 1 4], cmd 7 [putField 5 1 255]], commandKind (commandCode (pageData w)) = .release ∧
      ((releaseScope (pageData w) = 1 ∧ 63 < releaseHoldNumber (pageData w)) ∨
        (releaseScope (pageData w) = 2 ∧ 31 < releaseChan (pageData w)) ∨ releaseScope (pageData w) = 0 ∨
        3 < releaseScope (pageData w))) ∧
    (∀ w ∈ [cmd 8 [putField 5 1 0], cmd 8 [putField 5 1 3]], commandKind (commandCode (pageData w)) = .snapshot ∧
      (snapshotTarget (pageData w) = 0 ∨ 2 < snapshotTarget (pageData w))) := ⟨fun _ => ⟨ready_of _ _ rfl, rfl⟩, by decide +kernel⟩

theorem witness_StartSetsUpRun : (tState (tCore .stopped)).Ready .host ∧ (tCore .stopped).unit.busy = false ∧
    commandKind (commandCode (pageData (cmd 2 []))) = .start ∧ (tCore .stopped).unit.applied = true ∧
    (tCore .stopped).writer.unplacedTrigger = false ∧ (tCore .stopped).writer.unplacedFreeze = false := ⟨ready_of _ _ rfl, by decide +kernel⟩

theorem witness_StopEndsRun : ∀ r ∈ [RunState.listening, .postTrigger, .frozen], (tState (tCore r)).Ready .host ∧
    (tCore r).unit.busy = false ∧ commandKind (commandCode (pageData (cmd 3 []))) = .stop ∧ (tCore r).unit.run ≠ .stopped := by
  intro r h
  refine ⟨ready_of _ _ rfl, rfl, by decide +kernel, ?_⟩
  intro e
  have : r = .stopped := e
  subst this; revert h; decide

/-- A check that runs, under a setting of trigger in check, with a queued trigger or none. -/
def tChecking (inCheck : TriggerInCheck) (queued : Option QueuedTrigger) : Core :=
  let st := { tSettings with global := { tGlobal with triggerInCheck := inCheck } }
  let k := tDetector (.check { retained := [], overflow := false, peak := 0 })
  (k.setUnit { k.unit with settings := some st }).setCheck { k.check with state := .firing, queued := queued }

/-- No check; a check under each setting, with no trigger queued and with one at the end of its count. -/
theorem witness_TriggerTaken : (tState (tCore .listening)).Ready .host ∧
    ((tCore .listening).unit.busy = false ∧ commandKind (commandCode (pageData (cmd 4 []))) = .trigger ∧
      (tCore .listening).unit.run = .listening ∧ (tCore .listening).check.state = .idle ∧
      ((tCore .listening).hasRing 0 = true ∧ (tCore .listening).enabled 0 = true ∧
        ((tCore .listening).tracker 0).stalled = false)) ∧
    ∀ m, ∀ q ∈ [none, some { source := .pressure, extra := 65535 }],
      (tState (tChecking m q)).Ready .host ∧ (tChecking m q).unit.busy = false ∧ (tChecking m q).unit.run = .listening ∧
      (tChecking m q).check.state ≠ .idle ∧ (tChecking m q).global.triggerInCheck = m ∧ (tChecking m q).check.queued = q :=
  ⟨ready_of _ _ rfl, by decide +kernel, fun _ _ _ => ⟨ready_of _ _ rfl, rfl, rfl, nofun, rfl, rfl⟩⟩

theorem witness_ExtraTriggerCounts : (tState (tCounting 0)).Ready .host ∧ (tCounting 0).unit.busy = false ∧
    commandKind (commandCode (pageData (cmd 4 []))) = .trigger ∧ (tCounting 0).unit.run = .postTrigger ∧
    (tCounting 0).monitor.post = some tPost := ⟨ready_of _ _ rfl, by decide +kernel⟩

/-- FROZEN, with the context of its trigger. -/
def tFrozen : Core := (tCounting 0).setRun .frozen

theorem witness_ThawEndsFreeze : (tState tFrozen).Ready .host ∧ tFrozen.unit.busy = false ∧
    commandKind (commandCode (pageData (cmd 5 []))) = .thaw ∧ tFrozen.unit.run = .frozen ∧
    tFrozen.writer.unplacedFreeze = false ∧ tFrozen.monitor.post = some tPost ∧
    (tFrozen.marked false true false).writer.unplacedFreeze = true ∧ (tCore .stopped).unit.run ≠ .frozen := ⟨ready_of _ _ rfl, by decide +kernel⟩

theorem witness_CheckFires : (tState (tCore .listening)).Ready .host ∧
    ∀ w ∈ [cmd 6 [putField 5 1 0, putField 6 2 16], cmd 6 [putField 5 1 0, putField 6 2 4095]],
      commandKind (commandCode (pageData w)) = .check ∧ checkSource (pageData w) = (0 : Chan).val ∧
      16 ≤ checkWindow (pageData w) ∧ checkWindow (pageData w) ≤ 4095 ∧ (tCore .listening).enabled 0 = true ∧
      ((tCore .listening).tracker 0).stalled = false ∧ (tCore .listening).check.state = .idle ∧
      (tCore .listening).writer.unplacedCheck = false ∧ (tCore .listening).unit.busy = false :=
  ⟨ready_of _ _ rfl, by decide +kernel⟩

def tHold : Hold :=
  { state := .held, chan := 0, first := 1020, count := 8, capped := false, release := .onRead, reserved := 8, absorbed := 0,
    owner := 0 }

/-- Hold 63 covers ring indices 1020 to 3 of channel 0. -/
def tHeld (k : Core) : Core := k.setHold 63 (some tHold)

theorem witness_ReleaseFreesHolds : (tState (tHeld (tCore .listening))).Ready .host ∧
    (∀ w ∈ [cmd 7 [putField 5 1 1, putField 6 1 63], cmd 7 [putField 5 1 1, putField 6 1 0]],
      commandKind (commandCode (pageData w)) = .release ∧ releaseScope (pageData w) = 1 ∧ releaseHoldNumber (pageData w) ≤ 63) ∧
    (let w := cmd 7 [putField 5 1 2, putField 7 1 31]; releaseScope (pageData w) = 2 ∧ releaseChan (pageData w) ≤ 31) ∧
    (let w := cmd 7 [putField 5 1 3]; releaseScope (pageData w) = 3) ∧
    (tHeld (tCore .listening)).released (pageData (cmd 7 [putField 5 1 1, putField 6 1 63])) 63 = true := ⟨ready_of _ _ rfl, by decide +kernel⟩

theorem witness_LongCommandsBegin : (tState (tCore .stopped)).Ready .host ∧
    commandKind (commandCode (pageData (cmd 1 []))) = .apply ∧
    (∀ n ∈ [1, 2], commandKind (commandCode (pageData (cmd 8 [putField 5 1 n]))) = .snapshot ∧
      snapshotTarget (pageData (cmd 8 [putField 5 1 n])) = n) := ⟨ready_of _ _ rfl, by decide +kernel⟩

theorem witness_AcknowledgeClearsCauses : (tState ((tCore .stopped).raise .loss)).Ready .host ∧
    ((tCore .stopped).raise .loss).unit.pending &&& ~~~(byteAt (pageData { data := 0x80, mask := fullMask }) 0) = 0 :=
  ⟨ready_of _ _ rfl, by decide +kernel⟩

/-! ### The ring writes -/

def tPTracker (st : TrackerState) (expected count : Nat) : PressureTracker :=
  { PressureTracker.reset with state := st, expected := expected, count := count }

/-- Trackers IDLE and at their count limits, the ends of the rings, and the ends of a hold that wraps. -/
theorem witness_RingWritesMeetGuard :
    let idle := tHeld (tCore .stopped)
    let limit := tTracked (tTracker .tracking 5 (2 ^ 35 - 1))
    let pressure := tPressure (tPTracker .tracking 5 (2 ^ 32 - 1))
    ((tState idle).Ready .acquisition ∧ (tState idle).Ready .host ∧ (tState limit).Ready .acquisition ∧
      (tState pressure).Ready .acquisition) ∧
    ((idle.tracker 0).state = .idle ∧ (limit.tracker 0).state = .tracking ∧ (limit.tracker 0).count = 2 ^ 35 - 1 ∧
      idle.streams.pressure.state = .idle ∧ pressure.streams.pressure.state = .tracking ∧
      pressure.streams.pressure.count = 2 ^ 32 - 1 ∧
      (tState idle).place 1024 = .acoustic 0 0 ∧ (tState idle).place 2047 = .acoustic 0 1023 ∧
      (tState idle).place 2048 = .acoustic 1 0 ∧ (tState idle).place 3072 = .pressure 0 ∧
      (tState idle).place 3135 = .pressure 63) ∧
    (∃ h x, idle.hold h = some x ∧ x.chan = 0 ∧ x.covers (idle.ringSize 0) 1020 = true ∧
      x.covers (idle.ringSize 0) 3 = true ∧ x.covers (idle.ringSize 0) 4 = false) :=
  ⟨⟨ready_of _ _ rfl, ready_of _ _ rfl, ready_of _ _ rfl, ready_of _ _ rfl⟩, by decide +kernel, 63, tHold, by decide +kernel⟩

/-- Both kinds of fault, and a rewrite at the least and the greatest distance, in an acoustic ring and in the pressure ring. -/
theorem witness_UnplacedWriteFaults :
    let waits := tTracked (tTracker .waiting 0 0)
    let runs := tTracked (tTracker .tracking 5 7)
    let pressure := tPressure (tPTracker .tracking 5 7)
    ((tState waits).Ready .acquisition ∧ (tState runs).Ready .acquisition ∧ (tState pressure).Ready .acquisition) ∧
    (tState runs).place 1029 = .acoustic 0 5 ∧ (tState pressure).place 3077 = .pressure 5 ∧
    (∀ r ∈ runs.writer.queue, r.isFault = false) ∧
    Unplaced (waits.tracker 0).state (waits.tracker 0).expected (waits.ringSize 0) (waits.tracker 0).count (2 ^ 35 - 1) 5 0
      .partialWrite none ∧
    (∀ n ∈ [517, 4], Unplaced (runs.tracker 0).state (runs.tracker 0).expected (runs.ringSize 0) (runs.tracker 0).count
      (2 ^ 35 - 1) n fullMask .rewrite (some 5)) ∧
    Unplaced pressure.streams.pressure.state pressure.streams.pressure.expected pressure.pressureEntry.size
      pressure.streams.pressure.count (2 ^ 32 - 1) 5 0 .partialWrite (some 5) ∧
    (∀ n ∈ [37, 4], Unplaced pressure.streams.pressure.state pressure.streams.pressure.expected pressure.pressureEntry.size
      pressure.streams.pressure.count (2 ^ 32 - 1) n fullMask .rewrite (some 5)) := by
  unfold Unplaced
  exact ⟨⟨ready_of _ _ rfl, ready_of _ _ rfl, ready_of _ _ rfl⟩, by decide +kernel⟩

def tFault : FaultInfo :=
  { kind := .foreign, place := .elsewhere, index := none, expected := none, distance := none, time := none, lead := none,
    addr := some 0 }

def tLoss : Record := .loss { reason := .stop, loss := Loss.zero, horizon := 0 }

theorem witness_FaultMerges :
    let r : FaultRecord :=
      { first := tFault, horizon := 0, furtherCount := 65535, furtherKinds := 0, furtherChans := 0, pressureMark := false }
    let k := (tCore .listening).setQueue [tLoss, .fault r, tLoss]
    k.writer.queue = [tLoss] ++ .fault r :: [tLoss] ∧ (∀ x ∈ [tLoss] ++ [tLoss], x.isFault = false) ∧
    (∀ x ∈ (tCore .listening).writer.queue, x.isFault = false) := by decide +kernel

/-- Origin, in order, the longest skip, and the last block below the count limit. -/
theorem witness_PlacedWriteAdvances :
    (tState (tTracked (tTracker .waiting 0 0))).Ready .acquisition ∧ (tTracked (tTracker .waiting 0 0)).PlacedAt 0 1023 0 ∧
    ∀ a ∈ [(0, 5, 0), (0, 516, 511), (2 ^ 35 - 2, 5, 0), (2 ^ 35 - 3, 6, 1)],
      (tTracked (tTracker .tracking 5 a.1)).PlacedAt 0 a.2.1 a.2.2 := by
  refine ⟨ready_of _ _ rfl, placed_of (by decide +kernel), fun a h => placed_of ?_⟩
  revert a
  decide +kernel

/-- The same states, and a write that completes there. -/
theorem witness_StreamTimesFollow :
    let s := tState (tTracked (tTracker .tracking 5 9))
    s.Ready .acquisition ∧ s.core.PlacedAt 0 5 0 ∧ s.place 1029 = .acoustic 0 5 ∧
    exec (.acousticRingWrite (tWrite 1029 fullMask)) s = .next (after (.acousticRingWrite (tWrite 1029 fullMask)) s) := ⟨ready_of _ _ rfl, placed_of (by decide +kernel), by decide +kernel, rfl⟩

/-- A write that starts exactly at F = 64, in order and after a skip, with and without another ring COUNTING. -/
theorem witness_FreezingWriteFreezes :
    (tState (tCounting 2)).Ready .acquisition ∧ (tCounting 2).PlacedAt 0 5 0 ∧ (tCounting 1).PlacedAt 0 6 1 ∧
    (tCounting 2).check.state = .idle ∧ (tCounting 2).monitor.post = some tPost ∧
    ((tCounting 2).freezeOf 0).state = .counting ∧ tPost.freezeTime ≤ 32 * (((tCounting 2).tracker 0).count + 0) ∧
    tPost.freezeTime ≤ 32 * (((tCounting 1).tracker 0).count + 1) ∧
    (∀ j, j ≠ 0 → ((tCounting 2).freezeOf j).state ≠ .counting) ∧ (tCounting 2).guard.pFreeze.state = .counting := 
  ⟨ready_of _ _ rfl, placed_of (by decide +kernel), placed_of (by decide +kernel), by decide +kernel⟩

/-- Origin, in order, the longest skip, and the last block below the count limit. -/
theorem witness_PressureWriteAnalysed :
    (tState (tPressure (tPTracker .waiting 0 0))).Ready .acquisition ∧
    (tState (tPressure (tPTracker .waiting 0 0))).place 3135 = .pressure 63 ∧
    (tPressure (tPTracker .waiting 0 0)).PressurePlacedAt 63 0 ∧
    ∀ a ∈ [(0, 5, 0), (0, 36, 31), (2 ^ 32 - 2, 5, 0)], (tPressure (tPTracker .tracking 5 a.1)).PressurePlacedAt a.2.1 a.2.2 := by
  refine ⟨ready_of _ _ rfl, by decide +kernel, pressurePlaced_of (by decide +kernel), fun a h => pressurePlaced_of ?_⟩
  revert a
  decide +kernel

/-- A P_max of exactly the arm level, and a mean of 0 that stands exactly the burst drop below P_max, or one less. -/
theorem witness_PressureTriggersOnDrop :
    let k (pmax : Nat) (a : Arming) : Core :=
      let k := tPressure (tPTracker .tracking 5 0)
      k.setMonitor { k.monitor with pmax := pmax, arming := a }
    (tState (k 50 .armed)).Ready .acquisition ∧ (k 50 .armed).PressurePlacedAt 5 0 ∧ (k 50 .armed).unit.run = .listening ∧
    (k 50 .armed).check.state = .idle ∧ (k 50 .armed).global.burstDrop ≠ 0 ∧
    (k 50 .armed).global.burstDrop ≤ max (k 50 .armed).monitor.pmax 0 - 0 ∧
    ¬ (k 49 .armed).global.burstDrop ≤ max (k 49 .armed).monitor.pmax 0 - 0 ∧
    ((k 100 .unarmed).monitor.arming = .unarmed ∧ (k 100 .unarmed).global.armLevel ≤ max (k 100 .unarmed).monitor.pmax 0) ∧
    ¬ (k 99 .unarmed).global.armLevel ≤ max (k 99 .unarmed).monitor.pmax 0 ∧ (k 100 .spent).monitor.arming = .spent := ⟨ready_of _ _ rfl, pressurePlaced_of (by decide +kernel), by decide +kernel⟩

theorem witness_PressureFreezesAtCount :
    let k := (tCounting 0).setPressureTracker (tPTracker .tracking 5 3)
    (tState k).Ready .acquisition ∧ k.PressurePlacedAt 5 0 ∧ k.unit.run = .postTrigger ∧ k.monitor.post = some tPost ∧
    k.guard.pFreeze.state = .counting ∧ tPost.freezeNumber ≤ k.streams.pressure.count + 0 := ⟨ready_of _ _ rfl, pressurePlaced_of (by decide +kernel), by decide +kernel⟩

/-- An APPLY that runs, with so many reads granted and completed. -/
def tApplying (paths : Bool) (granted completed : Nat) : Core :=
  let k := tCore .stopped
  k.setUnit { k.unit with
    running := some (.apply 7 paths { started := true, granted := granted, completed := completed, failed := false, data := [] }) }

/-- What an APPLY that runs fetches. -/
theorem tApplying_fetches (paths : Bool) (b : Nat) :
    (tApplying paths 0 0).fetches b ↔ 12 ≤ b ∧ b ≤ if paths then 65 else 33 := by
  constructor
  · rintro ⟨tag, ps, f, h, hb⟩
    cases h
    exact hb
  · exact fun h => ⟨7, paths, _, rfl, h⟩

/-- Every clause, at the first and last block of each range, and with nothing that fetches. -/
theorem witness_OtherRequestsWait :
    let s := tState (tApplying false 0 0)
    (s.Ready .acquisition ∧ s.Ready .host) ∧
    (s.place 128 = .plain ∧ s.place 3200 = .plain ∧ s.place 3136 = .record 0 ∧ s.place 3199 = .record 63 ∧
      (∀ b ∈ [2, 11, 12, 33, 34, 65, 66, 127], s.place b = .control b) ∧ (∀ r ∈ s.core.writer.queue, r.isFault = false)) ∧
    (∀ b ∈ [12, 33], s.core.fetches b) ∧ (∀ b ∈ [11, 34], ¬s.core.fetches b) ∧
    (∀ b ∈ [12, 65], (tApplying true 0 0).fetches b) ∧ (∀ b ∈ [11, 66], ¬(tApplying true 0 0).fetches b) ∧
    ∀ b, ¬(tCore .stopped).fetches b := by
  refine ⟨⟨ready_of _ _ rfl, ready_of _ _ rfl⟩, by decide +kernel, ?_⟩
  simp only [tState, tApplying_fetches]
  refine ⟨by decide, by decide, by decide, by decide, ?_⟩
  rintro b ⟨tag, paths, f, h, _⟩
  cases h

/-! ### Samples -/

/-- A hit of arrival 100 with its last crossing there and C 10; with and without a sample above its peak of 200. -/
theorem witness_NormalEndCloses :
    let s := tState (tDetector (.opened tHit))
    (s.core.detector 0).state = .opened tHit ∧ 110 = tHit.lastCrossing + tHit.closeWin ∧
    ¬(tHit.threshold ≤ magnitude 0 ∧ (s.core.detector 0).prev < tHit.threshold) ∧ tHit.settled = false ∧
    tHit.peak < magnitude 201 ∧ ¬ tHit.peak < magnitude 200 := ⟨tDetector_state _, by decide +kernel⟩

theorem witness_CutReopens :
    let h := { tHit with threshold := 100, lastCrossing := 225 }
    let s := tState (tDetector (.opened h))
    (s.core.detector 0).state = .opened h ∧ 228 = h.arrival + 32 * h.maxLen ∧ ¬ 228 = h.lastCrossing + h.closeWin := ⟨tDetector_state _, by decide +kernel⟩

theorem witness_PeakSettles :
    let s := tState (tDetector (.opened tHit))
    (s.core.detector 0).state = .opened tHit ∧ tHit.settled = false ∧ magnitude 200 ≤ tHit.peak ∧
    105 = tHit.peakTime + tHit.peakWin ∧ 105 ≠ tHit.arrival + 32 * tHit.maxLen ∧ 105 ≠ tHit.lastCrossing + tHit.closeWin := ⟨tDetector_state _, by decide +kernel⟩

/-- The guard end itself, and the sample after it; the sample after the continuation end; a crossing and none. -/
theorem witness_GuardAndContinuationEnd :
    ((tDetector (.guard 50)).detector 0).state = .guard 50 ∧ ((tDetector (.armed (some 50))).detector 0).state = .armed (some 50) ∧
    thresholdFor ((tDetector (.guard 50)).settingsOf 0) ((tDetector (.guard 50)).detector 0).noise = 100 ∧
    100 ≤ magnitude 100 ∧ ¬ 100 ≤ magnitude 99 ∧ ((tDetector (.guard 50)).detector 0).prev < 100 := by decide +kernel

theorem witness_FireTimeoutEnds :
    let k := tDetector (.check { retained := [], overflow := false, peak := 0 })
    let k := k.setCheck { k.check with state := .firing, fireTime := 32 }
    k.check.state = .firing ∧ (0 : Chan) = k.check.source ∧
    (k.detector 0).state = .check { retained := [], overflow := false, peak := 0 } ∧ k.check.fireTime + 4096 ≤ 4128 := by
  decide +kernel

/-! ### The memory side -/

def tRead : Accepted := { request := .read 3136 7, places := [.record 0], startsFetch := false, cond := .waiting }

/-- A host read waits, and nothing internal is presented. -/
def tWaiting : State :=
  let s := tState (tCore .stopped)
  { s with
    host := { s.host with accepted := [tRead] }
    core := s.core.setUnit { s.core.unit with dirty := false } }

/-- The status writer presents block 3. -/
def tPresented (wait : Nat) : State :=
  { tWaiting with
    core := tCore .stopped
    arb := { lastGrant := .host, waitCount := wait, round := [], answer := some .block3, engine := false, record := false,
             abandoned := none } }

/-- Upstream grants without and beside an internal request, the round at a tenure of 2, and a round under way. -/
theorem witness_ArbiterChooses :
    (∀ p : Port, ∀ e ∈ (tWaiting.port p).accepted, p = .host ∧ e = tRead) ∧ tRead.cond = .waiting ∧
    (tWaiting.present = tWaiting ∧ tWaiting.arb.candidates = [] ∧ tWaiting.issued.length < 16) ∧
    ((tPresented 1).present = tPresented 1 ∧ (tPresented 1).arb.waitCount < (tPresented 1).core.global.tenure) ∧
    ((tPresented 2).present = tPresented 2 ∧ (tPresented 2).arb.candidates = [.answer] ∧
      (tPresented 2).core.global.tenure ≤ (tPresented 2).arb.waitCount ∧ tRead ∈ ((tPresented 2).port .host).accepted) ∧
    (let s := { tPresented 2 with arb := { (tPresented 2).arb with round := [.answer] } }
     s.present = s ∧ s.arb.round = [.answer] ∧ [Requester.answer].Nodup) := by
  refine ⟨?_, by decide +kernel⟩
  intro p e h
  cases p
  · cases h
  · exact ⟨rfl, List.mem_singleton.1 h⟩

/-- The status block alone presented, an answer due, a fetch, a snapshot and a placement. -/
theorem witness_InternalGrantsIssue :
    (let s := { tPresented 0 with host := PortState.reset }
     s.present = s ∧ s.arb.presents .answer = true ∧ s.arb.candidates = [.answer] ∧ s.arb.answer = some .block3) ∧
    (let s := (tState tBusy).present
     s.present = s ∧ s.arb.answer = some .block2 ∧ s.arb.candidates = [.answer]) ∧
    (let k := tApplying true 6 6
     let s := (tState (k.setUnit { k.unit with dirty := false })).present
     s.present = s ∧ s.arb.candidates = [.engine]) ∧
    (let k := (tCore .stopped).beginPlacement tLoss []
     let s := (tState (k.setUnit { k.unit with dirty := false })).present
     s.present = s ∧ s.arb.candidates = [.record]) := by decide +kernel

theorem witness_SlotZeroComesLast :
    let k := (tCore .stopped).setWriter { (tCore .stopped).writer with produce := 63 }
    k.writer.mode ≠ .shedding ∧ k.writer.produce < k.slots ∧ 4 ≤ k.slots ∧ k.padFor 2 = 1 := by decide +kernel

/-- A port's request on the memory port: a host read of the record ring, and an acquisition write. -/
def tIssued (p : Port) (e : Accepted) : State :=
  let s := tState (tHeld (tTracked (tTracker .tracking 5 7)))
  { s.setPort p { s.port p with accepted := [{ e with cond := .issued }] } with
    issued := [{ owner := .port p, request := e.request, discarded := false }] }

theorem witness_CompletionReturnsInOrder :
    let e : Accepted := { request := .write (tWrite 1029 fullMask), places := [.acoustic 0 5], startsFetch := false, cond := .issued }
    let s := tIssued .acquisition e
    s.issued = [{ owner := .port .acquisition, request := e.request, discarded := false }] ∧
    (s.port .acquisition).accepted = [] ++ e :: [] ∧ e.cond = .issued ∧ (∀ x ∈ s.core.writer.queue, x.isFault = false) := by
  decide +kernel

theorem witness_HostReadReleasesAndDrains :
    let e := { tRead with places := [.acoustic 0 3, .record 0], cond := .issued }
    let s := tIssued .host e
    s.host.accepted = [e] ∧ s.core.writer.drain < s.core.slots ∧ s.core.writer.occupancy < s.core.slots ∧
    tHold.last (s.core.ringSize 0) = 3 := by decide +kernel

/-- An internal request on the memory port. -/
def tInternal (k : Core) (o : Owner) (r : Request) : State :=
  { tState k with issued := [{ owner := o, request := r, discarded := false }] }

/-- The last write of a placement, and one before it. -/
theorem witness_RecordPublished :
    let k := (tCore .stopped).beginPlacement tLoss []
    ∃ p q, k.writer.placement = some p ∧ q = { p with granted := 2, completed := 1 } ∧ p.completed + 1 ≠ p.writes ∧
      q.completed + 1 = q.writes ∧ k.writer.halted = false := ⟨_, _, rfl, rfl, by decide +kernel⟩

theorem witness_AnswerIsWritten : tBusy.unit.due = [answerTo 0 .done .plain] ∧ tBusy.writer.halted = false ∧
    (tInternal tBusy (.answer (.answerBlock true)) (.read 0 0)).issued.length = 1 := by decide +kernel

theorem witness_InternalFailureHalts : ∀ o ∈ [Owner.record, .snapshot, .answer .statusBlock],
    (tInternal (tCore .stopped) o (.read 0 0)).issued = [{ owner := o, request := .read 0 0, discarded := false }] ∧
    (tInternal (tCore .stopped) o (.read 0 0)).core.writer.halted = false := by decide +kernel

/-- A fetch in the middle, a snapshot before its last write and at it. -/
theorem witness_LongCommandsGoOn :
    (∃ f, (tApplying false 2 1).unit.running = some (.apply 7 false f) ∧ f.completed + 1 = f.granted ∧ f.granted ≠ 3 ∧
      f.failed = false) ∧
    (∀ n ∈ [6, 7], (Running.snapshot 7 .channels 8 n = .snapshot 7 .channels 8 n) ∧ (n + 1 = 8 ↔ n = 7)) :=
  ⟨⟨_, rfl, by decide +kernel⟩, by decide +kernel⟩

/-- The last read of the fetch comes back: FAILED; disturbed; with settings of zeros, which validation refuses. -/
theorem witness_ApplyRefusedAtItsEnd :
    (∃ f, (tApplying false 3 2).unit.running = some (.apply 7 false f) ∧ f.completed + 1 = f.granted ∧ f.granted = 3) ∧
    (tApplying false 3 2).unit.disturbed = false ∧ (tApplying false 3 2).unit.run = .stopped ∧
    firstBad 0 (readSettings tLines.toList) = some { table := .global, entry := 0, offset := 12 } ∧
    (tCore .listening).changesLocked (readSettings tLines.toList) = true := by
  refine ⟨⟨_, rfl, by decide +kernel⟩, by decide +kernel⟩

/-- The settings blocks of a smallest valid layout: global settings alone. -/
def tGlobalBlock : Block := joinFields [putField 2 1 1, putField 3 1 1, putField 4 1 8, putField 6 2 1, putField 12 2 4]

/-- The record ring changes and an absent one stays absent. -/
theorem witness_ApplyActivates :
    (∃ f, (tApplying false 3 2).unit.running = some (.apply 7 false f) ∧ f.completed + 1 = f.granted ∧ f.granted = 3 ∧
      f.failed = false) ∧ (tApplying false 3 2).unit.disturbed = false ∧
    firstBad 0 (readSettings [tGlobalBlock]) = none ∧ (tApplying false 3 2).unit.run = .stopped ∧
    (tApplying false 3 2).entryChanged (readSettings [tGlobalBlock]) 33 = true ∧
    (let k := tApplying false 3 2
     (k.setUnit { k.unit with settings := none }).entryChanged (readSettings [tGlobalBlock]) 33 = false) :=
  ⟨⟨_, rfl, by decide +kernel, rfl, rfl⟩, rfl, by decide +kernel, rfl, by decide +kernel⟩

/-- An APPLY before its last read comes back, which changes the record ring, while a placement presents its first write. -/
def tRelaying : State :=
  let k := (tApplying false 3 2).beginPlacement tLoss []
  let f : Fetch := { started := true, granted := 3, completed := 2, failed := false, data := [tGlobalBlock] }
  (tInternal (k.setUnit { k.unit with running := some (.apply 7 false f), dirty := false }) .fetch (.read 28 5)).present

/-- The write stays presented, and is issued after the block 2 that stands before it, to be ignored. -/
theorem test_abandoned :
    tRelaying.core.writer.halted = false ∧
    let t := after (.fetchReadCompletion (.done tLines)) tRelaying
    let g := after .memoryGrant (after .memoryGrant t)
    tRelaying.arb.record = true ∧ t.core.writer.placement = none ∧ t.core.writer.queue = [tLoss] ∧ t.arb.record = false ∧
    t.arb.abandoned = tRelaying.core.writer.placement.map tRelaying.core.placementWrite ∧
    g.issued.map Issued.owner = [.answer (.answerBlock true), .record] ∧ g.issued.map Issued.discarded = [false, true] ∧
    some (g.issued.map Issued.request).getLast? = t.arb.abandoned.map (some ∘ Request.write) ∧
    g.arb.abandoned = none := by decide +kernel

theorem witness_DiscardedIsIgnored :
    let i : Issued := { owner := .record, request := .read 0 0, discarded := true }
    ({ tState (tCore .stopped) with issued := [i] }).issued = [i] ∧ i.discarded = true := by decide +kernel

/-! ### The record writer, grouping, holds -/

/-- A head that fits, and a full ring under each policy; a kept head. -/
theorem witness_HeadIsConsidered :
    let k := (tCore .stopped).setQueue [tLoss]
    let full := k.setWriter { k.writer with occupancy := 63 }
    k.writer.mode ≠ .shedding ∧ k.writer.placement = none ∧ k.writer.halted = false ∧ k.recordEntry.valid = true ∧
    k.need tLoss ≤ k.freeSlots ∧ ¬ full.need tLoss ≤ full.freeSlots ∧ full.global.policy = .shed ∧
    tLoss.sheddable = false ∧ full.global.resumeMark < full.writer.occupancy := by decide +kernel

/-- A stall at its limit of 100, one before it; the reference wraps. -/
theorem witness_StallExpires :
    let k := (tCore .stopped).setMode (.stalling 0xFFFFFFFF 100)
    k.writer.mode = .stalling 0xFFFFFFFF 100 ∧ 100 ≤ ((99 : BitVec 32) - 0xFFFFFFFF).toNat ∧
    ((98 : BitVec 32) - 0xFFFFFFFF).toNat < 100 := by decide +kernel

theorem witness_ThresholdAndNoise :
    let k := tDetector (.armed none)
    (k.detector 0).state = .armed none ∧ (k.settingsOf 0).mode = .fixed ∧
    ({ tChannel with mode := .floating }).mode = .floating := by decide +kernel

/-- Each outcome: NONE, frozen, the limit at 256 blocks of a ring of 1024, a full table, the lowest free entry. -/
theorem witness_HoldRequested :
    let k := tHeld (tCore .listening)
    let r : HoldRequest := { hit := 0, index := 40, before := 40, preBlocks := 2, maxLen := 4, mode := .onRead }
    r.mode ≠ .noHolds ∧ (k.tracker 0).frozen = false ∧ k.hold 0 = none ∧
    ¬ k.ringSize 0 / 4 < k.reservedTotal 0 + (k.newRange 0 r).2 + r.maxLen ∧
    k.ringSize 0 / 4 < k.reservedTotal 0 + (k.newRange 0 r).2 + 246 ∧
    ¬ k.ringSize 0 / 4 < k.reservedTotal 0 + (k.newRange 0 r).2 + 245 ∧
    (∀ h, (k.setGuard { k.guard with holds := Vector.replicate 64 (some tHold) }).hold h ≠ none) := by decide +kernel

/-- Offers at the horizon and one below it, with 63 and 64 listed. -/
theorem witness_ArrivalOffered :
    let a : Arrival := { chan := 0, time := 10, hit := 0 }
    let k (n : Nat) : Core :=
      let k := (tCore .listening).setHorizon 10
      k.setGroup { k.group with arrivals := List.replicate n a, lastTaken := some 9 }
    ((k 63).streams.horizon ≤ a.time ∧ (k 63).group.arrivals.length < 64) ∧
    ((k 64).streams.horizon ≤ a.time ∧ 64 ≤ (k 64).group.arrivals.length) ∧ 9 < (k 0).streams.horizon ∧
    (k 0).group.lastTaken = some 9 := by decide +kernel

def tEvent : Event := (tCore .listening).newEvent { chan := 0, time := 10, hit := 0 }

theorem witness_EventCloses :
    let k := (tCore .listening).setEvent 7 (some tEvent)
    look k.group.events 7 = some tEvent ∧ tEvent.minMembers ≤ tEvent.members.length ∧
    ({ tEvent with minMembers := 2 }).members.length < ({ tEvent with minMembers := 2 }).minMembers := by decide +kernel

theorem witness_PathTableReadsBack :
    let k := tCore .stopped
    ∀ f : Chan, fetched (List.replicate 22 0 ++ (List.range 32).map (k.snapshotBlock .paths)) (34 + f.val) =
      k.snapshotBlock .paths f.val := by
  intro k f
  have h : 34 + f.val - 12 = 22 + f.val := by omega
  rw [fetched, h, List.getElem?_append_right (by simp)]
  simp

/-- A step that finds and leaves a run. -/
theorem witness_HorizonNeverFalls :
    let s := tState (tCore .listening)
    step { s with pending := [.memoryGrant] } = .next (after .memoryGrant s) ∧ s.core.unit.run ≠ .stopped ∧
    (after .memoryGrant s).core.unit.run ≠ .stopped := ⟨rfl, by decide +kernel⟩

/-! ### One step each -/

theorem test_start : let t := after (.start (cmd 2 [])) (tState (tCore .stopped))
    t.core.unit.run = .listening ∧ (t.core.tracker 0).state = .waiting ∧ (t.core.tracker 2).state = .idle ∧
    t.core.unit.due.map Answer.result = [some .done] ∧ t.host.accepted.length = 1 := by decide +kernel

theorem test_unknown_code : (after (.unknownCommand (cmd 10 [])) (tState (tCore .stopped))).core.unit.due.map Answer.result =
    [some .unknown] := by decide +kernel

/-- A refused RELEASE: channel 32. -/
theorem test_release_field :
    (after (.releaseChannel (cmd 7 [putField 5 1 2, putField 7 1 32])) (tState (tCore .stopped))).core.unit.due.map Answer.result =
    [some .invalidField] := by decide +kernel

/-- The tolerance that came with an activation governs the next mean, not the one that stands. -/
theorem test_peak_tolerance : let k := tPressure (tPTracker .tracking 5 7)
    let k := k.setMonitor { k.monitor with fifo := [0], pmax := 100, peakTol := 500 }
    let t := after (.pressureRingWrite (tWrite 3077 fullMask)) (tState k)
    k.global.belowPeakTol = 0 ∧ k.monitor.belowPeak = false ∧ t.core.monitor.peakTol = 0 ∧
    t.core.monitor.belowPeak = true := by decide +kernel

/-- The first write of a channel sets its origin; its stream time is 32 samples, and so is the horizon. -/
theorem test_origin : let t := after (.acousticRingWrite (tWrite 1025 fullMask)) (tState (tTracked (tTracker .waiting 0 0)))
    (t.core.tracker 0).origin = some 1 ∧ (t.core.tracker 0).expected = 2 ∧ (t.core.tracker 0).count = 1 ∧
    t.core.streams.lead = 32 ∧ t.core.streams.horizon = 32 ∧ t.core.lastForwarded 0 = some 1 := by decide +kernel

/-- A skip of one block. -/
theorem test_skip : let t := after (.acousticRingWrite (tWrite 1030 fullMask)) (tState (tTracked (tTracker .tracking 5 7)))
    (t.core.tracker 0).count = 9 ∧ (t.core.tracker 0).faults = 1 ∧ t.core.unit.pending = 64 := by decide +kernel

/-- A protected index is absorbed and its write is answered at once. -/
theorem test_absorbed : let t := after (.hostRingWrite (tWrite 1027 fullMask)) (tState (tHeld (tCore .stopped)))
    t.host.returned = [.done []] ∧ (t.core.tracker 0).absorbed = 1 ∧ t.host.accepted = [] := by decide +kernel

theorem test_freezing : let t := after (.freezingWrite (tWrite 1029 fullMask)) (tState (tCounting 2))
    t.core.unit.run = .frozen ∧ (t.core.freezeOf 0).state = .atWrite ∧ t.core.guard.pFreeze.state = .withAcoustic ∧
    t.core.unit.pending = 16 := by decide +kernel

/-- A sample at the threshold after one below it opens a hit. -/
theorem test_opens : let k := tDetector (.armed none)
    let t := after (.continuationEnd (tSample 51 100)) (tState ((k.computeThreshold 0).setDetectorState 0 (.armed (some 50))))
    (t.core.detector 0).inCheck = false ∧ t.core.hits.nextHit = 1 ∧ t.core.group.arrivals.length = 1 := by decide +kernel

/-- After power-on the status is dirty: the first grant issues block 3. -/
theorem test_first_grant : let t := after .memoryGrant (after (.powerOn 1) State.reset)
    t.issued.map Issued.owner = [.answer .statusBlock] ∧ t.core.unit.dirty = false ∧ t.pageBase = 16384 := by decide +kernel

theorem test_stall_starts : let k := ((tCore .stopped).setQueue [tLoss]).setWriter { (tCore .stopped).writer with queue := [tLoss], occupancy := 63 }
    let st := { tSettings with global := { tGlobal with policy := .stall } }
    let t := after (.placement 9) (tState (k.setUnit { k.unit with settings := some st }))
    t.core.writer.mode = .stalling 9 100 ∧ t.core.acquisitionOpen = false := by decide +kernel

end Sys2Proof.Machine
end

section
/-! What a step can do to the blocks behind the link, said once: a reset, a command, or operations of `Core.Op`. -/

namespace Sys2Proof.Machine

/-! ### One operation behind the link -/

/-- One operation of a step behind the link, commands and resets aside. `page` is the block address of the control page. -/
inductive Core.Op (page : Nat) : Core → Core → Prop
  | acousticWrite (k : Core) (c : Chan) (n : Nat) (w : BlockWrite) : Op page k (k.acousticWrite c n w).1
  | pressureWrite (k : Core) (n : Nat) (w : BlockWrite) : Op page k (k.pressureWrite n w).1
  | hostAcousticWrite (k : Core) (c : Chan) (n : Nat) : Op page k (k.hostAcousticWrite c n).1
  | raiseForeign (k : Core) (addr : BlockAddr) : Op page k (k.raiseForeign addr)
  | reportPageWrite (k : Core) (b : Nat) : Op page k (k.reportPageWrite b)
  | acknowledge (k : Core) (bits : Byte) : Op page k (k.acknowledge bits)
  | hostReadReturned (k : Core) (ps : List Place) : Op page k (k.hostReadReturned ps)
  | raiseDownstream (k : Core) (addr : BlockAddr) (x : Place) : Op page k (k.raiseDownstream addr x)
  | startFetch (k : Core) : Op page k k.startFetch
  | answerCompleted (k : Core) (w : AnswerWrite) (r : Completion) : Op page k (k.answerCompleted w r)
  | recordCompleted (k : Core) (r : Completion) : Op page k (k.recordCompleted r)
  | snapshotCompleted (k : Core) (r : Completion) : Op page k (k.snapshotCompleted r)
  | fetchCompleted (k : Core) (lines : Option (List Block)) : Op page k (k.fetchCompleted page lines)
  | issueAnswer (k : Core) : Op page k (k.setUnit { k.unit with refusalMark := false, awaiting := true })
  | issueStatus (k : Core) : Op page k (k.setUnit { k.unit with dirty := false, awaiting := true })
  | issueFetch (k : Core) (tag : Num) (paths : Bool) (f : Fetch) (h : k.unit.running = some (.apply tag paths f))
      (more : f.granted < (fetchReads paths).length) :
      Op page k (k.setUnit { k.unit with running := some (.apply tag paths { f with granted := f.granted + 1 }) })
  | issueSnapshot (k : Core) (tag : Num) (x : SnapshotTarget) (granted completed : Nat)
      (h : k.unit.running = some (.snapshot tag x granted completed)) :
      Op page k (k.setUnit { k.unit with running := some (.snapshot tag x (granted + 1) completed) })
  | issuePlacement (k : Core) (p : Placement) (h : k.writer.placement = some p) :
      Op page k (k.setWriter { k.writer with placement := some { p with granted := p.granted + 1 } })
  | considerHead (k : Core) (now : BitVec 32) : Op page k (k.considerHead now)
  | stallExpiry (k : Core) (now : BitVec 32) : Op page k (k.stallExpiry now)
  | endStrobe (k : Core) : Op page k k.endStrobe
  | takeSample (k : Core) (c : Chan) (i t : Nat) (x : BitVec 16) : Op page k (k.takeSample c i t x)
  | choose (k : Core) : Op page k k.choose.2

/-- Operations one after another. -/
abbrev Core.Ops (page : Nat) : Core → Core → Prop := Relation.ReflTransGen (Core.Op page)

/-- What a step that is no reset does behind the link: operations, or one command and then the return of host reads. Before
the command a free choice may have been made (log 5). -/
def Core.StepsTo (page : Nat) (k k' : Core) : Prop :=
  Core.Ops page k k' ∨ ∃ n b pss, k' = List.foldl Core.hostReadReturned ((k.setChoices n).takeCommand b) pss

theorem Core.Ops.one {page : Nat} {k k' : Core} (h : Core.Op page k k') : Core.Ops page k k' := .single h

theorem Core.Op.stepsTo {page : Nat} {k k' : Core} (h : Core.Op page k k') : Core.StepsTo page k k' := .inl (.single h)

theorem Core.StepsTo.refl (page : Nat) (k : Core) : Core.StepsTo page k k := .inl .refl

theorem Core.ops_foldl {β : Type} {page : Nat} {f : Core → β → Core} (hf : ∀ k x, Core.Op page k (f k x)) (l : List β)
    (k : Core) : Core.Ops page k (l.foldl f k) :=
  foldl_rel (fun _ _ _ h => h.tail (hf _ _)) l k k .refl

theorem Core.StepsTo.returned {page : Nat} {k k' : Core} (h : Core.StepsTo page k k') (pss : List (List Place)) :
    Core.StepsTo page k (pss.foldl Core.hostReadReturned k') := by
  rcases h with h | ⟨n, b, qss, rfl⟩
  · exact .inl (h.trans (Core.ops_foldl .hostReadReturned pss k'))
  · exact .inr ⟨n, b, qss ++ pss, List.foldl_append.symm⟩

/-! ### Acceptance and return -/

theorem State.returnOne_core (s : State) (p : Port) (e : Accepted) (rest : List Accepted) (r : Returned) :
    ∃ pss, (s.returnOne p e rest r).core = List.foldl Core.hostReadReturned s.core pss := by
  have key : ∃ pss, s.core.entryReturned p e r = List.foldl Core.hostReadReturned s.core pss := by
    unfold Core.entryReturned
    split
    · exact ⟨[e.places], rfl⟩
    · exact ⟨[], rfl⟩
  exact key

theorem State.returnLoop_core (p : Port) (fuel : Nat) (s : State) :
    ∃ pss, (State.returnLoop p fuel s).core = List.foldl Core.hostReadReturned s.core pss := by
  induction fuel generalizing s with
  | zero => exact ⟨[], rfl⟩
  | succ fuel ih =>
    unfold State.returnLoop
    split
    · exact ⟨[], rfl⟩
    · rename_i e rest _
      split
      · rename_i r _
        obtain ⟨pss, hp⟩ := s.returnOne_core p e rest r
        obtain ⟨qss, hq⟩ := ih (s.returnOne p e rest r)
        exact ⟨pss ++ qss, by rw [hq, hp, List.foldl_append]⟩
      · exact ⟨[], rfl⟩
      · exact ⟨[], rfl⟩

theorem Core.StepsTo.returnReady {page : Nat} {k : Core} {s : State} (h : Core.StepsTo page k s.core) (p : Port) :
    Core.StepsTo page k (s.returnReady p).core := by
  obtain ⟨pss, hp⟩ := State.returnLoop_core p (s.port p).accepted.length s
  rw [State.returnReady, hp]
  exact h.returned pss

theorem State.takeAcquisitionWrite_ops (page : Nat) (s : State) (w : BlockWrite) :
    Core.Ops page s.core (s.takeAcquisitionWrite w).1.core := by
  unfold State.takeAcquisitionWrite
  split
  · exact .single (.acousticWrite ..)
  · exact .single (.pressureWrite ..)
  · exact .single (.raiseForeign ..)
  · exact (Core.Ops.one (.raiseForeign ..)).tail (.reportPageWrite ..)
  · exact .refl

theorem Core.reportPageWrite_zero (k : Core) : k.reportPageWrite 0 = k := by
  unfold Core.reportPageWrite
  split
  · rw [if_neg (by omega)]
  · rfl
  · rfl

theorem State.takePageWrite_stepsTo (page : Nat) (s : State) (b : Nat) (w : BlockWrite) :
    Core.StepsTo page s.core (s.takePageWrite b w).core := by
  unfold State.takePageWrite
  dsimp only
  split
  · refine .inr ⟨s.core.choices, maskedData w.data w.mask, [], ?_⟩
    rw [State.takeCommand_core, State.setCore_core, Core.reportPageWrite_zero]
    rfl
  · exact .inl ((Core.Ops.one (.reportPageWrite ..)).tail (.acknowledge ..))
  · exact (Core.Op.reportPageWrite ..).stepsTo

theorem State.takeHostWrite_stepsTo (page : Nat) (s : State) (w : BlockWrite) :
    Core.StepsTo page s.core (s.takeHostWrite w).1.core := by
  unfold State.takeHostWrite
  split
  · exact (Core.Op.hostAcousticWrite ..).stepsTo
  · exact .refl page s.core
  · exact s.takePageWrite_stepsTo page _ w
  · exact .refl page s.core
  · exact .refl page s.core

theorem State.acceptRequest_stepsTo (page : Nat) (s : State) (p : Port) (r : Request) :
    Core.StepsTo page s.core (s.acceptRequest p r).core := by
  cases r with
  | read addr len => simpa [State.acceptRequest] using Core.StepsTo.refl page s.core
  | write w =>
    simp only [State.acceptRequest, State.enqueue_core]
    cases p with
    | acquisition => exact .inl (s.takeAcquisitionWrite_ops page w)
    | host => exact s.takeHostWrite_stepsTo page w

theorem State.acceptFront_stepsTo (page : Nat) (s : State) (p : Port) :
    Core.StepsTo page s.core (s.acceptFront p).core := by
  unfold State.acceptFront
  split
  · exact .refl page s.core
  · rename_i r rest _
    have h := (s.setPort p { s.port p with link := rest }).acceptRequest_stepsTo page p r
    rw [State.setPort_core] at h
    exact h.returnReady p

theorem State.arrive_stepsTo (page : Nat) (s : State) (p : Port) (r : Request) :
    Core.StepsTo page s.core (s.arrive p r).core := by
  have hq := (s.setPort p { s.port p with link := (s.port p).link ++ [r] }).acceptFront_stepsTo page p
  rw [State.setPort_core] at hq
  unfold State.arrive
  dsimp only
  split
  · exact hq
  · rw [State.setPort_core]; exact .refl page s.core

theorem State.acceptOn_stepsTo (page : Nat) (s : State) (p : Port) :
    Core.StepsTo page s.core (s.acceptOn p).core := by
  simpa [State.acceptOn] using s.acceptFront_stepsTo page p

theorem Core.StepsTo.after_choose {page : Nat} {k k' : Core} (h : Core.StepsTo page k.choose.2 k') :
    Core.StepsTo page k k' := by
  rcases h with h | ⟨n, b, pss, rfl⟩
  · exact .inl (.head (.choose k) h)
  · exact .inr ⟨n, b, pss, rfl⟩

theorem State.acceptHeld_stepsTo (page : Nat) (s : State) : Core.StepsTo page s.core s.acceptHeld.core := by
  unfold State.acceptHeld
  split
  · exact (State.acceptOn_stepsTo page (s.setCore s.core.choose.2) _).after_choose
  · exact s.acceptOn_stepsTo page .acquisition
  · exact s.acceptOn_stepsTo page .host
  · exact .refl page s.core

/-! ### Completions -/

theorem Core.upstreamReceived_ops (page : Nat) (k : Core) (p : Port) (e : Accepted) (r : Completion) :
    Core.Ops page k (k.upstreamReceived p e r) := by
  have fetch : ∀ k' : Core, Core.Ops page k k' → Core.Ops page k (if e.startsFetch then k'.startFetch else k') := by
    intro k' h
    split
    · exact h.tail (.startFetch k')
    · exact h
  unfold Core.upstreamReceived
  refine fetch _ ?_
  split
  · rename_i w _
    exact Core.ops_foldl (fun k x => .raiseDownstream k w.addr x) e.places k
  · exact .refl

theorem State.completeUpstream_stepsTo (page : Nat) (s : State) (p : Port) (r : Completion) :
    Core.StepsTo page s.core (s.completeUpstream p r).core := by
  unfold State.completeUpstream
  dsimp only
  split
  · exact .refl page s.core
  · rename_i e _
    exact Core.StepsTo.returnReady (.inl (s.core.upstreamReceived_ops page p e r)) p

theorem State.completeFetch_ops (s : State) (r : Request) (x : Completion) :
    Core.Ops s.pageBase s.core (s.completeFetch r x).core := by
  unfold State.completeFetch
  dsimp only
  split
  · exact .single (.fetchCompleted ..)
  · exact .single (.fetchCompleted ..)

theorem State.receive_stepsTo (s : State) (r : Completion) :
    Core.StepsTo s.pageBase s.core (s.receive r).core := by
  unfold State.receive
  split
  · exact .refl _ s.core
  · rename_i i rest _
    unfold State.completeFor
    split
    · exact .refl _ s.core
    · split
      · exact State.completeUpstream_stepsTo _ (s.setIssued rest) _ r
      · exact (Core.Op.answerCompleted ..).stepsTo
      · exact .inl (State.completeFetch_ops (s.setIssued rest) _ r)
      · exact (Core.Op.snapshotCompleted ..).stepsTo
      · exact (Core.Op.recordCompleted ..).stepsTo

/-! ### Grants -/

theorem State.issueReply_ops (page : Nat) (s : State) : Core.Ops page s.core s.issueReply.core := by
  unfold State.issueReply
  dsimp only
  split
  · exact .single (.issueAnswer s.core)
  · exact .single (.issueStatus s.core)
  · exact .refl

theorem State.issueEngine_ops (page : Nat) (s : State) : Core.Ops page s.core s.issueEngine.core := by
  unfold State.issueEngine
  dsimp only
  split
  · rename_i tag paths f h
    split
    · rename_i r hr
      exact .single (.issueFetch s.core tag paths f h (List.getElem?_eq_some_iff.1 hr).1)
    · exact .refl
  · rename_i tag x granted completed h
    exact .single (.issueSnapshot s.core tag x granted completed h)
  · exact .refl

theorem State.issueRecord_ops (page : Nat) (s : State) : Core.Ops page s.core s.issueRecord.core := by
  unfold State.issueRecord
  split
  · exact .refl
  · unfold State.issuePlacement
    dsimp only
    split
    · rename_i p h
      exact .single (.issuePlacement s.core p h)
    · exact .refl

theorem State.issueInternal_ops (page : Nat) (s : State) (r : Requester) :
    Core.Ops page s.core (s.issueInternal r).core := by
  cases r with
  | answer => exact s.issueReply_ops page
  | engine => exact s.issueEngine_ops page
  | record => exact s.issueRecord_ops page

theorem State.grantUpstream_core (s : State) (p : Port) : (s.grantUpstream p).core = s.core := by
  unfold State.grantUpstream
  dsimp only
  split
  · simp [State.issue]
  · rfl

theorem State.grantInRound_ops (page : Nat) (s : State) (r : Requester) (rest : List Requester) :
    Core.Ops page s.core (s.grantInRound r rest).core := by
  have h := s.issueInternal_ops page r
  unfold State.grantInRound
  dsimp only
  split
  · exact h
  · exact h

theorem State.grantBoth_ops (page : Nat) (s : State) (p : Port) (r : Requester) (rest : List Requester) :
    Core.Ops page s.core (s.grantBoth p r rest).core := by
  unfold State.grantBoth
  split
  · dsimp only
    rw [State.setArb_core, State.grantUpstream_core]
  · exact s.grantInRound_ops page r rest

theorem State.choose_ops (page : Nat) (s : State) : Core.Ops page s.core s.choose.core := by
  unfold State.choose
  split
  · exact s.grantInRound_ops page _ _
  · split
    · exact .refl
    · rw [State.grantUpstream_core]
    · exact s.issueInternal_ops page _
    · exact s.grantBoth_ops page _ _ _

theorem State.grant_ops (page : Nat) (s : State) : Core.Ops page s.core s.grant.core := by
  have h := s.present.choose_ops page
  rw [State.present_core] at h
  unfold State.grant
  dsimp only
  split
  · rw [State.present_core]
  · exact h

/-! ### The rows -/

theorem State.sampleEvent_stepsTo (page : Nat) (s : State) (due : Bool) (e : SampleEvent) :
    Core.StepsTo page s.core (s.sampleEvent due e).core := by
  unfold State.sampleEvent
  split
  · rw [State.present_core]
    exact (Core.Op.takeSample ..).stepsTo
  · exact .refl page s.core

/-- The command resets the part. -/
def isReset : Instr → Bool
  | .powerOn _ | .linkReset => true
  | _ => false

theorem exec_reset {i : Instr} {s t : State} (hi : isReset i = true) (h : exec i s = .next t) :
    ∃ path n, t.core = Core.reset path n := by
  cases i with
  | powerOn straps => injection h with h; exact ⟨pathReset, s.core.choices, by rw [← h]⟩
  | linkReset => injection h with h; exact ⟨s.core.group.path, s.core.choices, by rw [← h]⟩
  | _ => cases hi

/-- What a command that is no reset does behind the link, row by row. -/
theorem exec_stepsTo {i : Instr} {s t : State} (hi : isReset i = false) (h : exec i s = .next t) :
    Core.StepsTo s.pageBase s.core t.core := by
  have arrives : ∀ p r, Core.StepsTo s.pageBase s.core (s.arrive p r).present.core := by
    intro p r
    rw [State.present_core]
    exact s.arrive_stepsTo _ p r
  have receives : ∀ r, Core.StepsTo s.pageBase s.core (s.receive r).present.core := by
    intro r
    rw [State.present_core]
    exact s.receive_stepsTo r
  cases i with
  | powerOn _ => cases hi
  | linkReset => cases hi
  | linkResetRelease =>
    cases h
    rw [State.present_core]
    exact .refl _ s.core
  | acousticRingWrite w | pressureRingWrite w | hostRingWrite w | freezingWrite w | pressureFreeze w =>
    cases h; exact arrives _ _
  | forwardedWrite p w => cases h; exact arrives _ _
  | readRequest p addr len => cases h; exact arrives _ _
  | apply w | start w | stop w | trigger w | thaw w | check w | releaseOne w | releaseChannel w | releaseAll w
  | snapshotChannels w | snapshotPaths w | clear w | unknownCommand w | acknowledge w => cases h; exact arrives _ _
  | memoryGrant =>
    cases h
    rw [State.present_core]
    exact .inl (s.grant_ops _)
  | upstreamCompletion r | recordWriteCompletion r | answerWriteCompletion r | fetchReadCompletion r
  | snapshotWriteCompletion r | discardedCompletion r => cases h; exact receives _
  | placement time =>
    cases h
    rw [State.present_core]
    exact (Core.Op.considerHead s.core time).stepsTo
  | stallExpiry time =>
    cases h
    rw [State.present_core]
    exact (Core.Op.stallExpiry s.core time).stepsTo
  | pulseStrobeEnd =>
    cases h
    rw [State.present_core]
    exact (Core.Op.endStrobe s.core).stepsTo
  | fireTimeout e | normalEnd e | guardEnd e | cut e | peakSettled e | continuationEnd e =>
    cases h; exact s.sampleEvent_stepsTo _ _ e

/-- What a step does behind the link: the reset that its command names, or a command, or operations. -/
theorem step_core {s t : State} (h : step s = .next t) :
    (∃ c rest, s.pending = c :: rest ∧ isReset c = true ∧ ∃ path n, t.core = Core.reset path n) ∨
      Core.StepsTo s.pageBase s.core t.core := by
  unfold step at h
  split at h
  · cases h; exact .inr (s.acceptHeld_stepsTo _)
  · rename_i c rest hp
    cases hc : isReset c with
    | true => exact .inl ⟨c, rest, hp, hc, exec_reset hc h⟩
    | false => exact .inr (exec_stepsTo (s := { s with pending := rest }) hc h)

end Sys2Proof.Machine
end

section
/-! The run (R2, R42, R101, R105, R107, R115): what keeps `Core.RunSound`, operation by operation. -/

namespace Sys2Proof.Machine

/-- What a view of the state does not hide is the same in two states of the same view. -/
theorem read_of_view {β : Type} {view : Core → Core} {k k' : Core} (h : view k' = view k) (F : Core → β)
    (hF : ∀ k, F (view k) = F k := by intro; rfl) : F k' = F k := by
  rw [← hF k', h, hF k]

/-! ### Beside the record writer -/

/-- The state without the record writer and without the command unit but its run state. -/
def Core.besideWriter (k : Core) : Core :=
  { k with writer := Writer.reset, unit := { CommandUnit.reset with run := k.unit.run } }

theorem Core.besideWriter_of_aside {k k' : Core} (h : k'.aside = k.aside) : k'.besideWriter = k.besideWriter :=
  read_of_view h Core.besideWriter

theorem Core.setUnit_besideWriter (k : Core) (u : CommandUnit) (h : u.run = k.unit.run) :
    (k.setUnit u).besideWriter = k.besideWriter := by
  unfold Core.besideWriter; rw [Core.setUnit_unit, h]; rfl

@[simp] theorem Core.setWriter_besideWriter (k : Core) (w : Writer) : (k.setWriter w).besideWriter = k.besideWriter := rfl
@[simp] theorem Core.markDirty_besideWriter (k : Core) : k.markDirty.besideWriter = k.besideWriter := rfl
@[simp] theorem Core.raise_besideWriter (k : Core) (c : Cause) : (k.raise c).besideWriter = k.besideWriter := rfl
@[simp] theorem Core.acknowledge_besideWriter (k : Core) (b : Byte) : (k.acknowledge b).besideWriter = k.besideWriter := rfl
@[simp] theorem Core.setMode_besideWriter (k : Core) (m : WriterMode) : (k.setMode m).besideWriter = k.besideWriter := rfl
@[simp] theorem Core.setQueue_besideWriter (k : Core) (q : List Record) : (k.setQueue q).besideWriter = k.besideWriter := rfl
@[simp] theorem Core.discard_besideWriter (k : Core) (r : Record) (b : Bool) :
    (k.discard r b).besideWriter = k.besideWriter := rfl
@[simp] theorem Core.formAnswer_besideWriter (k : Core) (a : Answer) : (k.formAnswer a).besideWriter = k.besideWriter := rfl
@[simp] theorem Core.answer_besideWriter (k : Core) (b : Block) (r : AnswerResult) (d : AnswerDetail) :
    (k.answer b r d).besideWriter = k.besideWriter := rfl
@[simp] theorem Core.refuse_besideWriter (k : Core) (b : Block) (r : AnswerResult) :
    (k.refuse b r).besideWriter = k.besideWriter := rfl
@[simp] theorem Core.refuseBusy_besideWriter (k : Core) (b : Block) : (k.refuseBusy b).besideWriter = k.besideWriter := rfl
@[simp] theorem Core.endRunning_besideWriter (k : Core) (a : Answer) : (k.endRunning a).besideWriter = k.besideWriter := rfl
@[simp] theorem Core.takeApply_besideWriter (k : Core) (b : Block) : (k.takeApply b).besideWriter = k.besideWriter := rfl
@[simp] theorem Core.handFreeze_besideWriter (k : Core) (r : FreezeRecord) :
    (k.handFreeze r).besideWriter = k.besideWriter := rfl
@[simp] theorem Core.raiseForeign_besideWriter (k : Core) (a : BlockAddr) :
    (k.raiseForeign a).besideWriter = k.besideWriter := rfl

@[simp] theorem Core.exitTest_besideWriter (k : Core) : k.exitTest.besideWriter = k.besideWriter :=
  Core.besideWriter_of_aside k.exitTest_aside
@[simp] theorem Core.shedHeads_besideWriter (k : Core) : k.shedHeads.besideWriter = k.besideWriter :=
  Core.besideWriter_of_aside k.shedHeads_aside
@[simp] theorem Core.enterShedding_besideWriter (k : Core) : k.enterShedding.besideWriter = k.besideWriter :=
  Core.besideWriter_of_aside k.enterShedding_aside
@[simp] theorem Core.handSheddable_besideWriter (k : Core) (r : Record) :
    (k.handSheddable r).besideWriter = k.besideWriter := Core.besideWriter_of_aside (k.handSheddable_aside r)
@[simp] theorem Core.handLossIfCounted_besideWriter (k : Core) (r : LossReason) :
    (k.handLossIfCounted r).besideWriter = k.besideWriter := Core.besideWriter_of_aside (k.handLossIfCounted_aside r)
@[simp] theorem Core.handFreezeRecord_besideWriter (k : Core) (r : FreezeEnd) :
    (k.handFreezeRecord r).besideWriter = k.besideWriter := by
  unfold Core.handFreezeRecord; split <;> simp

@[simp] theorem Core.endStall_besideWriter (k : Core) : k.endStall.besideWriter = k.besideWriter := by
  unfold Core.endStall; split <;> simp
@[simp] theorem Core.halt_besideWriter (k : Core) : k.halt.besideWriter = k.besideWriter := by
  unfold Core.halt; split <;> simp
@[simp] theorem Core.publish_besideWriter (k : Core) (p : Placement) : (k.publish p).besideWriter = k.besideWriter := by
  unfold Core.publish; dsimp only; split <;> simp
@[simp] theorem Core.recordWritten_besideWriter (k : Core) : k.recordWritten.besideWriter = k.besideWriter := by
  unfold Core.recordWritten
  split
  · rfl
  · dsimp only; split <;> simp
@[simp] theorem Core.abandonPlacement_besideWriter (k : Core) : k.abandonPlacement.besideWriter = k.besideWriter := by
  unfold Core.abandonPlacement; split <;> simp
@[simp] theorem Core.relayRecordRing_besideWriter (k : Core) : k.relayRecordRing.besideWriter = k.besideWriter := by
  simp [Core.relayRecordRing]
@[simp] theorem Core.followPolicy_besideWriter (k old : Core) : (k.followPolicy old).besideWriter = k.besideWriter := by
  unfold Core.followPolicy; split <;> simp
@[simp] theorem Core.drainRead_besideWriter (k : Core) (ps : List Place) :
    (k.drainRead ps).besideWriter = k.besideWriter := by
  unfold Core.drainRead; dsimp only; split <;> simp
@[simp] theorem Core.considerHead_besideWriter (k : Core) (now : BitVec 32) :
    (k.considerHead now).besideWriter = k.besideWriter := by
  have stall : ∀ k : Core, (k.beginStall now).besideWriter = k.besideWriter := fun _ => rfl
  have blocked : ∀ (k : Core) r rest, (k.headBlocked r rest now).besideWriter = k.besideWriter := by
    intro k r rest
    unfold Core.headBlocked
    split
    · split
      · exact stall k
      · split <;> simp
    · rfl
    · rfl
  unfold Core.considerHead
  dsimp only
  split
  · simp
  · split
    · simp
    · split
      · simp [Core.beginPlacement]
      · rw [blocked, Core.shedHeads_besideWriter]
@[simp] theorem Core.stallExpiry_besideWriter (k : Core) (now : BitVec 32) :
    (k.stallExpiry now).besideWriter = k.besideWriter := by
  have expire : k.expireStall.besideWriter = k.besideWriter := by
    unfold Core.expireStall
    rw [Core.enterShedding_besideWriter]
    dsimp only
    split
    · rfl
    · split <;> simp
  unfold Core.stallExpiry
  split
  · split
    · exact expire
    · rfl
  · rfl
  · rfl
@[simp] theorem Core.reportPageWrite_besideWriter (k : Core) (b : Nat) :
    (k.reportPageWrite b).besideWriter = k.besideWriter := by
  unfold Core.reportPageWrite
  split
  · split <;> rfl
  · rfl
  · rfl
@[simp] theorem Core.startFetch_besideWriter (k : Core) : k.startFetch.besideWriter = k.besideWriter := by
  unfold Core.startFetch; split <;> rfl
@[simp] theorem Core.answerWritten_besideWriter (k : Core) : k.answerWritten.besideWriter = k.besideWriter := by
  unfold Core.answerWritten; split <;> rfl
@[simp] theorem Core.answerCompleted_besideWriter (k : Core) (w : AnswerWrite) (r : Completion) :
    (k.answerCompleted w r).besideWriter = k.besideWriter := by
  unfold Core.answerCompleted
  dsimp only
  split
  · rfl
  · split <;> simp [Core.setUnit_besideWriter]
@[simp] theorem Core.recordCompleted_besideWriter (k : Core) (r : Completion) :
    (k.recordCompleted r).besideWriter = k.besideWriter := by
  unfold Core.recordCompleted
  split
  · rfl
  · split <;> simp
@[simp] theorem Core.snapshotCompleted_besideWriter (k : Core) (r : Completion) :
    (k.snapshotCompleted r).besideWriter = k.besideWriter := by
  have written : k.snapshotWritten.besideWriter = k.besideWriter := by
    unfold Core.snapshotWritten
    split
    · split <;> rfl
    · rfl
    · rfl
  unfold Core.snapshotCompleted
  split
  · rfl
  · split
    · exact written
    · simp
@[simp] theorem Core.takeSnapshot_besideWriter (k : Core) (b : Block) : (k.takeSnapshot b).besideWriter = k.besideWriter := by
  unfold Core.takeSnapshot; split <;> rfl

end Sys2Proof.Machine
end

section
/-! The run (R2, R42, R101, R105, R107, R115): what keeps `Core.RunSound`, operation by operation. -/

namespace Sys2Proof.Machine

/-! ### Operations that leave the run as it is -/

/-- The run is left as it is: nothing idle is started, no freeze state and no post-trigger context comes or goes, and no
detector enters CHECK. -/
structure Core.RunKept (k k' : Core) : Prop where
  run       : k'.unit.run = k.unit.run
  check     : k'.check.state = k.check.state
  queued    : k'.check.queued.isSome = k.check.queued.isSome
  freezes   : ∀ c, (k'.freezeOf c).state = (k.freezeOf c).state
  pfreeze   : k.guard.pFreeze.state = .none → k'.guard.pFreeze.state = .none
  post      : k'.monitor.post.isSome = k.monitor.post.isSome
  trackers  : ∀ c, (k.tracker c).state = .idle → (k'.tracker c).state = .idle
  pressure  : k.streams.pressure.state = .idle → k'.streams.pressure.state = .idle
  detectors : ∀ c, (k.detector c).state = .idle → (k'.detector c).state = .idle
  inCheck   : ∀ c, (k'.detector c).inCheck = true → (k.detector c).inCheck = true

theorem Core.RunKept.refl (k : Core) : k.RunKept k :=
  ⟨rfl, rfl, rfl, fun _ => rfl, id, rfl, fun _ => id, id, fun _ => id, fun _ => id⟩

theorem Core.RunKept.trans {a b c : Core} (h : a.RunKept b) (g : b.RunKept c) : a.RunKept c where
  run := g.run.trans h.run
  check := g.check.trans h.check
  queued := g.queued.trans h.queued
  freezes j := (g.freezes j).trans (h.freezes j)
  pfreeze e := g.pfreeze (h.pfreeze e)
  post := g.post.trans h.post
  trackers j e := g.trackers j (h.trackers j e)
  pressure e := g.pressure (h.pressure e)
  detectors j e := g.detectors j (h.detectors j e)
  inCheck j e := h.inCheck j (g.inCheck j e)

theorem Core.RunKept.counting {k k' : Core} (h : k.RunKept k') : k'.Counting ↔ k.Counting := by
  simp only [Core.Counting, h.freezes]

theorem Core.RunKept.quiet {k k' : Core} (h : k.RunKept k') (q : k.Quiet) : k'.Quiet where
  trackers c := h.trackers c (q.trackers c)
  pressure := h.pressure q.pressure
  detectors c := h.detectors c (q.detectors c)
  check := h.check.trans q.check
  freezes c := (h.freezes c).trans (q.freezes c)
  pfreeze := h.pfreeze q.pfreeze
  post := by
    have := h.post
    rw [q.post] at this
    simpa using this

/-- What leaves the run as it is keeps it sound. -/
theorem Core.RunKept.sound {k k' : Core} (h : k.RunKept k') (s : k.RunSound) : k'.RunSound where
  stopped e := h.quiet (s.stopped (h.run ▸ e))
  context := by rw [h.post, h.run]; exact s.context
  counting := by rw [h.counting, h.run]; exact s.counting
  checks := by rw [h.check, h.run]; exact s.checks
  queued := by rw [h.queued, h.check]; exact s.queued
  contexts e c := by
    have := s.contexts (h.check ▸ e) c
    cases hc : (k'.detector c).inCheck with
    | false => rfl
    | true => rw [h.inCheck c hc] at this; cases this

/-- The detectors of the other channels stay, and that of channel c, not IDLE before, is not in CHECK. -/
structure Core.DetectorMoved (k k' : Core) (c : Chan) : Prop where
  others : ∀ j, j ≠ c → k'.detector j = k.detector j
  moved  : (k'.detector c).inCheck = false

/-- While no check runs, a sample in one channel's detector leaves the run as it is. -/
theorem Core.RunKept.of_calm {k k' : Core} {c : Chan} (h : k'.calm = k.calm) (old : (k.detector c).state ≠ .idle)
    (new : k.DetectorMoved k' c) : k.RunKept k' where
  run := read_of_view h (fun k : Core => k.unit.run)
  check := read_of_view h (fun k : Core => k.check.state)
  queued := read_of_view h (fun k : Core => k.check.queued.isSome)
  freezes j := read_of_view h (fun k : Core => (k.freezeOf j).state)
  pfreeze e := (read_of_view h (fun k : Core => k.guard.pFreeze.state)).trans e
  post := read_of_view h (fun k : Core => k.monitor.post.isSome)
  trackers j e := (read_of_view h (fun k : Core => (k.tracker j).state)).trans e
  pressure e := (read_of_view h (fun k : Core => k.streams.pressure.state)).trans e
  detectors j e := by
    by_cases hj : j = c
    · subst hj; exact absurd e old
    · rw [new.others j hj]; exact e
  inCheck j e := by
    by_cases hj : j = c
    · subst hj; rw [new.moved] at e; cases e
    · rw [← new.others j hj]; exact e

/-- Holds, groups and free choices alone. -/
theorem Core.RunKept.of_hits {k k' : Core} (h : k'.calm = k.calm) (hd : k'.hits = k.hits) : k.RunKept k' where
  run := read_of_view h (fun k : Core => k.unit.run)
  check := read_of_view h (fun k : Core => k.check.state)
  queued := read_of_view h (fun k : Core => k.check.queued.isSome)
  freezes j := read_of_view h (fun k : Core => (k.freezeOf j).state)
  pfreeze e := (read_of_view h (fun k : Core => k.guard.pFreeze.state)).trans e
  post := read_of_view h (fun k : Core => k.monitor.post.isSome)
  trackers j e := (read_of_view h (fun k : Core => (k.tracker j).state)).trans e
  pressure e := (read_of_view h (fun k : Core => k.streams.pressure.state)).trans e
  detectors j e := by unfold Core.detector at *; rw [hd]; exact e
  inCheck j e := by unfold Core.detector at *; rw [← hd]; exact e

/-- Record writer and command unit alone, the run state aside. -/
theorem Core.RunKept.of_writer {k k' : Core} (h : k'.besideWriter = k.besideWriter) : k.RunKept k' where
  run := read_of_view h (fun k : Core => k.unit.run)
  check := read_of_view h (fun k : Core => k.check.state)
  queued := read_of_view h (fun k : Core => k.check.queued.isSome)
  freezes j := read_of_view h (fun k : Core => (k.freezeOf j).state)
  pfreeze e := (read_of_view h (fun k : Core => k.guard.pFreeze.state)).trans e
  post := read_of_view h (fun k : Core => k.monitor.post.isSome)
  trackers j e := (read_of_view h (fun k : Core => (k.tracker j).state)).trans e
  pressure e := (read_of_view h (fun k : Core => k.streams.pressure.state)).trans e
  detectors j e := (read_of_view h (fun k : Core => (k.detector j).state)).trans e
  inCheck j e := (read_of_view h (fun k : Core => (k.detector j).inCheck)).symm.trans e

/-- Neither the record writer nor the command unit, its run state aside, touches the run. -/
theorem Core.RunSound.beside {k k' : Core} (s : k.RunSound) (h : k'.besideWriter = k.besideWriter) : k'.RunSound :=
  (Core.RunKept.of_writer h).sound s

/-- The streams alone, no tracker leaving IDLE. -/
theorem Core.RunKept.setStreams (k : Core) (x : Streams)
    (hc : ∀ c, (k.tracker c).state = .idle → (look x.chan c).state = .idle)
    (hp : k.streams.pressure.state = .idle → x.pressure.state = .idle) : k.RunKept (k.setStreams x) :=
  { Core.RunKept.refl k with trackers := hc, pressure := hp }

theorem Core.RunKept.setTracker (k : Core) (c : Chan) (t : Tracker) (h : (k.tracker c).state = .idle → t.state = .idle) :
    k.RunKept (k.setTracker c t) := by
  refine .setStreams k _ (fun j e => ?_) id
  rw [look_put]
  split
  · subst_vars; exact h e
  · exact e

/-- One detector that does not enter CHECK. -/
theorem Core.RunKept.setDetector (k : Core) (c : Chan) (d : Detector)
    (hi : (k.detector c).state = .idle → d.state = .idle) (hc : d.inCheck = true → (k.detector c).inCheck = true) :
    k.RunKept (k.setDetector c d) :=
  { Core.RunKept.refl k with
    detectors := fun j e => by
      rw [Core.detector_setDetector]
      split
      · subst_vars; exact hi e
      · exact e
    inCheck := fun j e => by
      rw [Core.detector_setDetector] at e
      split at e
      · subst_vars; exact hc e
      · exact e }

theorem Core.RunKept.setMonitor (k : Core) (m : Monitor) (h : m.post.isSome = k.monitor.post.isSome) :
    k.RunKept (k.setMonitor m) := { Core.RunKept.refl k with post := h }

theorem Core.RunKept.setCheck (k : Core) (u : CheckUnit) (hs : u.state = k.check.state)
    (hq : u.queued.isSome = k.check.queued.isSome) : k.RunKept (k.setCheck u) :=
  { Core.RunKept.refl k with check := hs, queued := hq }

theorem Core.RunKept.setGroup (k : Core) (g : Grouper) : k.RunKept (k.setGroup g) := { Core.RunKept.refl k with }

theorem Core.RunKept.forChans {f : Core → Chan → Core} (h : ∀ k c, Core.RunKept k (f k c)) (k : Core) :
    k.RunKept (forChans f k) := forChans_rel .refl (fun _ _ _ e => e.trans (h _ _)) k

/-! ### The parts of an operation -/

theorem runKept_of_aside {k k' : Core} (h : k'.aside = k.aside) : k.RunKept k' :=
  .of_writer (Core.besideWriter_of_aside h)

theorem runKept_of_holds {k k' : Core} (h : k'.besideHolds = k.besideHolds) : k.RunKept k' :=
  .of_hits (calm_of_holds h) (read_of_view h Core.hits)

theorem runKept_of_events {k k' : Core} (h : k'.besideEvents = k.besideEvents) : k.RunKept k' :=
  .of_hits (calm_of_events h) (read_of_view h Core.hits)

theorem runKept_raiseFault (k : Core) (i : FaultInfo) : k.RunKept (k.raiseFault i) := by
  have count : k.RunKept (k.countFault i.place) := by
    unfold Core.countFault
    split
    · exact .setTracker k _ _ id
    · exact .refl k
    · exact .refl k
  refine count.trans (.of_writer ?_)
  rw [raiseFault_eq]
  cases i.place <;> rfl

theorem inCheck_releaseEarly (d : Detector) (h : Fin 64) : (d.releaseEarly h).inCheck = d.inCheck := by
  unfold Detector.releaseEarly
  split
  · rename_i hit hs
    split
    · simp [Detector.inCheck, hs]
    · rfl
  all_goals rfl

theorem state_releaseEarly_of_idle (d : Detector) (h : Fin 64) (hd : d.state = .idle) : d.releaseEarly h = d := by
  unfold Detector.releaseEarly; rw [hd]

theorem runKept_setHold (k : Core) (h : Fin 64) (x : Option Hold) : k.RunKept (k.setHold h x) := runKept_of_holds rfl

theorem runKept_releaseHold (k : Core) (h : Fin 64) : k.RunKept (k.releaseHold h) := by
  unfold Core.releaseHold
  split
  · exact .refl k
  · refine (runKept_setHold k h none).trans ?_
    unfold Core.tellReleased
    split
    · refine .setDetector _ _ _ (fun e => ?_) (fun e => ?_)
      · rw [state_releaseEarly_of_idle _ _ e]; exact e
      · rwa [inCheck_releaseEarly] at e
    · exact .refl _

theorem runKept_releaseList (k : Core) (hs : List (Fin 64)) : k.RunKept (k.releaseList hs) :=
  foldl_rel (fun _ _ _ e => e.trans (runKept_releaseHold _ _)) hs k k (.refl k)

theorem runKept_hostReadReturned (k : Core) (ps : List Place) : k.RunKept (k.hostReadReturned ps) :=
  (runKept_releaseList k _).trans (.of_writer (Core.drainRead_besideWriter _ ps))

theorem runKept_countAbsorbed (k : Core) (c : Chan) (o : Option (Fin 64)) : k.RunKept (k.countAbsorbed c o) := by
  unfold Core.countAbsorbed
  obtain ⟨hs, h⟩ := countHoldAbsorbed_keeps (k.setTracker c { k.tracker c with absorbed := satInc (k.tracker c).absorbed }) o
  rw [h]
  exact (Core.RunKept.setTracker k c { k.tracker c with absorbed := satInc (k.tracker c).absorbed } id).trans
    (runKept_of_holds rfl)

/-! ### Where a run is sound -/

/-- In LISTENING the run is sound when nothing of a freeze stands and the check unit agrees with the detectors. -/
theorem runSound_of_listening {k : Core} (run : k.unit.run = .listening) (post : k.monitor.post = none)
    (freezes : ∀ c, (k.freezeOf c).state ≠ .counting) (queued : k.check.queued.isSome = true → k.check.state ≠ .idle)
    (contexts : k.check.state = .idle → ∀ c, (k.detector c).inCheck = false) : k.RunSound where
  stopped e := by rw [run] at e; cases e
  context := by simp [run, post]
  counting := ⟨fun ⟨c, e⟩ => absurd e (freezes c), fun e => by rw [run] at e; cases e⟩
  checks _ := run
  queued := queued
  contexts := contexts

/-- In STOPPED the run is sound when nothing runs and no trigger is queued. -/
theorem runSound_of_quiet {k : Core} (run : k.unit.run = .stopped) (q : k.Quiet) (queued : k.check.queued = none) :
    k.RunSound where
  stopped _ := q
  context := by simp [run, q.post]
  counting := ⟨fun ⟨c, e⟩ => (by rw [q.freezes c] at e; cases e), fun e => (by rw [run] at e; cases e)⟩
  checks e := absurd q.check e
  queued e := by rw [queued] at e; cases e
  contexts _ c := by simp [Detector.inCheck, q.detectors c]

theorem Core.RunSound.listening {k : Core} (s : k.RunSound) (hc : k.check.state ≠ .idle) :
    k.unit.run = .listening ∧ k.monitor.post = none ∧ ∀ c, (k.freezeOf c).state ≠ .counting := by
  have hr := s.checks hc
  refine ⟨hr, ?_, fun c e => ?_⟩
  · have : ¬ k.monitor.post.isSome = true := fun e => by
      rcases s.context.1 e with e | e <;> rw [hr] at e <;> cases e
    simpa using this
  · have := s.counting.1 ⟨c, e⟩
    rw [hr] at this; cases this

/-- A trigger has been taken, and the all-frozen test may still be due (R105). -/
structure Core.Triggered (k : Core) : Prop where
  run      : k.unit.run = .postTrigger
  post     : k.monitor.post.isSome = true
  check    : k.check.state = .idle
  queued   : k.check.queued = none
  contexts : ∀ c, (k.detector c).inCheck = false

theorem Core.RunSound.triggered {k : Core} (s : k.RunSound) (run : k.unit.run = .postTrigger) : k.Triggered := by
  have hc : k.check.state = .idle := by
    by_contra e
    have := s.checks e
    rw [run] at this; cases this
  refine ⟨run, s.context.2 (.inl run), hc, ?_, s.contexts hc⟩
  have : ¬ k.check.queued.isSome = true := fun e => s.queued e hc
  simpa using this

theorem allFrozenStep_freezeOf (k : Core) (c : Chan) : k.allFrozenStep.freezeOf c = k.freezeOf c :=
  allFrozenStep_keeps (fun k => k.freezeOf c) (fun _ _ => rfl) (fun _ _ => rfl) (fun _ _ => rfl) (fun _ _ => rfl) k

theorem allFrozenStep_monitor (k : Core) : k.allFrozenStep.monitor = k.monitor :=
  allFrozenStep_keeps Core.monitor (fun _ _ => rfl) (fun _ _ => rfl) (fun _ _ => rfl) (fun _ _ => rfl) k

theorem allFrozenStep_check (k : Core) : k.allFrozenStep.check = k.check :=
  allFrozenStep_keeps Core.check (fun _ _ => rfl) (fun _ _ => rfl) (fun _ _ => rfl) (fun _ _ => rfl) k

theorem allFrozenStep_hits (k : Core) : k.allFrozenStep.hits = k.hits :=
  allFrozenStep_keeps Core.hits (fun _ _ => rfl) (fun _ _ => rfl) (fun _ _ => rfl) (fun _ _ => rfl) k

theorem someCounting_iff (k : Core) : k.someCounting = true ↔ k.Counting := by
  simp [Core.someCounting, Core.Counting, allChans]

/-- The all-frozen test settles the run state after a trigger or a freeze. -/
theorem Core.Triggered.tested {k : Core} (h : k.Triggered) : k.allFrozenTest.RunSound := by
  have hd : ∀ c, k.allFrozenStep.detector c = k.detector c := fun c => by simp [Core.detector, allFrozenStep_hits]
  have hrun := allFrozenStep_run k
  unfold Core.allFrozenTest
  split
  · rename_i hs
    have hc := (someCounting_iff k).1 hs
    exact {
      stopped := fun e => by rw [h.run] at e; cases e
      context := by simp [h.post, h.run]
      counting := ⟨fun _ => h.run, fun _ => hc⟩
      checks := fun e => absurd h.check e
      queued := fun e => by rw [h.queued] at e; cases e
      contexts := fun _ => h.contexts }
  · rename_i hs
    have hc : ¬ k.Counting := fun e => hs ((someCounting_iff k).2 e)
    exact {
      stopped := fun e => by rw [hrun] at e; cases e
      context := by simp [allFrozenStep_monitor, h.post, hrun]
      counting := ⟨fun ⟨c, e⟩ => absurd ⟨c, by rwa [allFrozenStep_freezeOf] at e⟩ hc, fun e => by rw [hrun] at e; cases e⟩
      checks := fun e => absurd (by rw [allFrozenStep_check]; exact h.check) e
      queued := fun e => by rw [allFrozenStep_check, h.queued] at e; cases e
      contexts := fun _ c => by rw [hd]; exact h.contexts c }

theorem inCheck_markFrozen (d : Detector) : d.markFrozen.inCheck = d.inCheck := by
  unfold Detector.markFrozen
  split
  · rename_i hit hs
    simp [Detector.inCheck, hs]
  all_goals rfl

theorem Core.Triggered.freezeRing {k : Core} (h : k.Triggered) (c : Chan) (st : FreezeState) :
    (k.freezeRing c st).Triggered :=
  { run := h.run, post := h.post, check := h.check, queued := h.queued
    contexts := fun j => by
      rw [freezeRing_detector]
      split
      · rw [inCheck_markFrozen]; exact h.contexts j
      · exact h.contexts j }

/-- A COUNTING ring freezes, and the all-frozen test follows. -/
theorem Core.RunSound.ringFrozen {k : Core} (s : k.RunSound) (c : Chan) (st : FreezeState)
    (hc : (k.freezeOf c).state = .counting) : (k.freezeRing c st).allFrozenTest.RunSound :=
  ((s.triggered (s.counting.1 ⟨c, hc⟩)).freezeRing c st).tested

theorem Core.RunSound.freezeAtOnce {k : Core} (s : k.RunSound) (c : Chan) (st : FreezeState) :
    (k.freezeAtOnce c st).RunSound := by
  unfold Core.freezeAtOnce
  split
  · rename_i hc; exact s.ringFrozen c st hc
  · exact s

/-! ### Triggers -/

/-- A trigger taken while no check runs. -/
theorem takeTrigger_runSound {k : Core} (tt : TriggerTaking) (check : k.check.state = .idle) (queued : k.check.queued = none)
    (contexts : ∀ c, (k.detector c).inCheck = false) : (k.takeTrigger tt).RunSound := by
  obtain ⟨k1, hk1⟩ : ∃ k1, k1 = (((k.setMonitor { k.monitor with tt := k.streams.horizon, post := some (k.postContext tt) }).setRun
      .postTrigger).handTrigger (k.triggerRecord tt)) := ⟨_, rfl⟩
  have kept : FreezeKept k1 (forChans Core.giveFreezeState k1) :=
    forChans_rel FreezeKept.refl (fun k k' c h => h.trans (giveFreezeState_kept k' c)) k1
  have hd : ∀ c, ((forChans Core.giveFreezeState k1).detector c).inCheck = false := by
    intro c
    have h1 : (k1.detector c).inCheck = false := by rw [hk1]; exact contexts c
    rcases give_detector k1 c with e | e
    · rw [e]; exact h1
    · rw [e, inCheck_markFrozen]; exact h1
  have trig : (forChans Core.giveFreezeState k1).Triggered :=
    { run := by rw [kept.unit, hk1]; rfl
      post := by rw [kept.monitor, hk1]; rfl
      check := by rw [kept.check, hk1]; exact check
      queued := by rw [kept.check, hk1]; exact queued
      contexts := hd }
  have he : k.takeTrigger tt = ((forChans Core.giveFreezeState k1).setPressureFreeze
      { state := if (forChans Core.giveFreezeState k1).pressureEntry.valid then .counting else .noRing,
        point := none }).allFrozenTest := by rw [hk1]; rfl
  rw [he]
  exact Core.Triggered.tested ⟨trig.run, trig.post, trig.check, trig.queued, trig.contexts⟩

theorem runKept_extraTrigger (k : Core) : k.RunKept k.extraTrigger := by
  unfold Core.extraTrigger
  split
  · rename_i p hp; exact .setMonitor k _ (by simp [hp])
  · exact .refl k

/-! ### The end of a check -/

/-- What the end of a check leaves as it is. -/
structure Core.CheckEnded (k k' : Core) : Prop where
  run       : k'.unit.run = k.unit.run
  post      : k'.monitor.post = k.monitor.post
  freezes   : ∀ c, k'.freezeOf c = k.freezeOf c
  check     : k'.check.state = .idle
  queued    : k'.check.queued = k.check.queued
  detectors : k'.hits = k.hits
  guard     : k'.guard = k.guard
  streams   : k'.streams = k.streams
  monitor   : k'.monitor = k.monitor

theorem endCheck_ended (k : Core) (r : CheckEnd) (a : Option AbandonCause) (q : Bool) : k.CheckEnded (k.endCheck r a q) := by
  unfold Core.endCheck
  dsimp only
  split <;> exact ⟨rfl, rfl, fun _ => rfl, rfl, rfl, rfl, rfl, rfl, rfl⟩

theorem leaveChecks_inCheck (k : Core) (c : Chan) : ((forChans Core.leaveCheck k).detector c).inCheck = false := by
  rw [leaveChecks_detector]
  split
  · rfl
  · rename_i h; simpa using h

theorem leaveChecks_beside (k : Core) : (forChans Core.leaveCheck k).besideDetectors = k.besideDetectors :=
  forChans_keeps Core.besideDetectors Core.leaveCheck_besideDetectors k

theorem setQueuedTrigger_self {k : Core} {q : Option QueuedTrigger} (h : k.check.queued = q) : k.setQueuedTrigger q = k := by
  subst h; rfl

/-- The state in which a check has ended, its detectors have left CHECK and no trigger is queued any more. -/
structure Core.CheckOver (k : Core) : Prop where
  run      : k.unit.run = .listening
  post     : k.monitor.post = none
  freezes  : ∀ c, (k.freezeOf c).state ≠ .counting
  check    : k.check.state = .idle
  queued   : k.check.queued = none
  contexts : ∀ c, (k.detector c).inCheck = false

theorem Core.CheckOver.sound {k : Core} (h : k.CheckOver) : k.RunSound :=
  runSound_of_listening h.run h.post h.freezes (fun e => by rw [h.queued] at e; cases e) fun _ => h.contexts

/-- A check that runs ends, and its detectors leave CHECK; `queued` is the trigger still queued then. -/
theorem Core.RunSound.checkOver {k : Core} (s : k.RunSound) (hc : k.check.state ≠ .idle) (r : CheckEnd)
    (a : Option AbandonCause) (q : Bool) :
    ((forChans Core.leaveCheck (k.endCheck r a q)).setQueuedTrigger none).CheckOver ∧
    (forChans Core.leaveCheck ((k.endCheck r a q).setQueuedTrigger none)).CheckOver := by
  obtain ⟨run, post, freezes⟩ := s.listening hc
  have e := endCheck_ended k r a q
  have left : ∀ x : Core, x.unit.run = .listening → x.monitor.post = none → (∀ c, (x.freezeOf c).state ≠ .counting) →
      x.check.state = .idle →
      (forChans Core.leaveCheck x).unit.run = .listening ∧ (forChans Core.leaveCheck x).monitor.post = none ∧
      (∀ c, ((forChans Core.leaveCheck x).freezeOf c).state ≠ .counting) ∧ (forChans Core.leaveCheck x).check = x.check := by
    intro x h1 h2 h3 h4
    have b := leaveChecks_beside x
    exact ⟨(read_of_view b (fun k : Core => k.unit.run)).trans h1, (read_of_view b (fun k : Core => k.monitor.post)).trans h2,
      fun c e => h3 c ((read_of_view b (fun k : Core => (k.freezeOf c).state)).symm.trans e), read_of_view b Core.check⟩
  constructor
  · obtain ⟨h1, h2, h3, h4⟩ := left (k.endCheck r a q) (e.run.trans run) (e.post.trans post)
      (fun c => by rw [e.freezes]; exact freezes c) e.check
    exact ⟨h1, h2, h3, (congrArg CheckUnit.state h4).trans e.check, rfl, leaveChecks_inCheck _⟩
  · obtain ⟨h1, h2, h3, h4⟩ := left ((k.endCheck r a q).setQueuedTrigger none) (e.run.trans run) (e.post.trans post)
      (fun c => by
        show ((k.endCheck r a q).freezeOf c).state ≠ .counting
        rw [e.freezes]; exact freezes c) e.check
    exact ⟨h1, h2, h3, (congrArg CheckUnit.state h4).trans e.check, congrArg CheckUnit.queued h4, leaveChecks_inCheck _⟩

theorem Core.CheckOver.takeTrigger {k : Core} (h : k.CheckOver) (tt : TriggerTaking) : (k.takeTrigger tt).RunSound :=
  takeTrigger_runSound tt h.check h.queued h.contexts

theorem Core.RunSound.finishCheck {k : Core} (s : k.RunSound) (hc : k.check.state ≠ .idle) (r : CheckEnd) :
    (k.finishCheck r).RunSound := by
  have left := (s.checkOver hc r none k.check.queued.isSome).1
  unfold Core.finishCheck
  dsimp only
  split
  · exact left.takeTrigger _
  · rename_i hq
    have hn : (forChans Core.leaveCheck (k.endCheck r none k.check.queued.isSome)).check.queued = none := by
      have h := (endCheck_ended k r none k.check.queued.isSome).queued
      exact (read_of_view (leaveChecks_beside _) (fun k : Core => k.check.queued)).trans (h.trans hq)
    rw [setQueuedTrigger_self hn] at left
    exact left.sound

theorem Core.RunSound.abandonByTrigger {k : Core} (s : k.RunSound) (hc : k.check.state ≠ .idle) (src : TriggerSource) :
    (k.abandonByTrigger src).1.RunSound := by
  have left := (s.checkOver hc .abandoned (some .trigger) k.check.queued.isSome).2
  unfold Core.abandonByTrigger
  dsimp only
  split
  · exact left.takeTrigger _
  · exact (runKept_extraTrigger _).sound (left.takeTrigger _)

theorem checkRuns_iff (k : Core) : k.checkRuns = true ↔ k.check.state ≠ .idle := by simp [Core.checkRuns]

theorem Core.RunSound.queueTrigger {k : Core} (s : k.RunSound) (hc : k.check.state ≠ .idle) (src : TriggerSource) :
    (k.queueTrigger src).1.RunSound := by
  have key : ∀ q, (k.setQueuedTrigger q).RunSound := fun q =>
    { stopped := fun e => nomatch (s.checks hc).symm.trans e
      context := s.context
      counting := s.counting
      checks := s.checks
      queued := fun _ => hc
      contexts := s.contexts }
  unfold Core.queueTrigger
  split
  · exact key _
  · exact key _

theorem Core.RunSound.dispatchTrigger {k : Core} (s : k.RunSound) (src : TriggerSource) :
    (k.dispatchTrigger src).1.RunSound := by
  unfold Core.dispatchTrigger
  split
  · split
    · rename_i hc
      have hc := (checkRuns_iff k).1 hc
      split
      · exact s.queueTrigger hc src
      · exact s.abandonByTrigger hc src
    · rename_i hc
      have hc : k.check.state = .idle := by
        by_contra e
        exact hc ((checkRuns_iff k).2 e)
      refine takeTrigger_runSound _ hc ?_ (s.contexts hc)
      have : ¬ k.check.queued.isSome = true := fun e => s.queued e hc
      simpa using this
  all_goals exact (runKept_extraTrigger k).sound s

end Sys2Proof.Machine
end

section
/-! The run stays sound under the analysis of a write, under commands and under activations. -/

namespace Sys2Proof.Machine

/-! ### Single updates -/

theorem runKept_markDirty (k : Core) : k.RunKept k.markDirty := .of_writer rfl
theorem runKept_setPrev (k : Core) (c : Chan) (m : Nat) : k.RunKept (k.setPrev c m) := .setDetector k c _ id id
theorem runKept_setCount (k : Core) (c : Chan) (m : Nat) : k.RunKept (k.setCount c m) := .setTracker k c _ id
theorem runKept_setExpected (k : Core) (c : Chan) (n : Nat) : k.RunKept (k.setExpected c n) := .setTracker k c _ id
theorem runKept_setStalled (k : Core) (c : Chan) (b : Bool) : k.RunKept (k.setStalled c b) := .setTracker k c _ id
theorem runKept_setHorizon (k : Core) (h : Nat) : k.RunKept (k.setHorizon h) :=
  .setStreams k { k.streams with horizon := h } (fun _ => id) id
theorem runKept_recomputeLead (k : Core) : k.RunKept k.recomputeLead :=
  .setStreams k { k.streams with lead := k.leadTime } (fun _ => id) id
theorem runKept_setChoices (k : Core) (n : Nat) : k.RunKept (k.setChoices n) := { Core.RunKept.refl k with }
theorem runKept_setLastForwarded (k : Core) (c : Chan) (n : Nat) : k.RunKept (k.setLastForwarded c n) :=
  { Core.RunKept.refl k with }
theorem runKept_setPressureLastForwarded (k : Core) (n : Nat) : k.RunKept (k.setPressureLastForwarded n) :=
  { Core.RunKept.refl k with }

theorem runKept_markStalled (k : Core) (c : Chan) : k.RunKept (k.markStalled c) := by
  unfold Core.markStalled
  split
  · exact .setCheck k _ rfl rfl
  · exact .refl k

theorem runKept_markDisabled (k : Core) (c : Chan) : k.RunKept (k.markDisabled c) := by
  unfold Core.markDisabled
  split
  · exact .setCheck k _ rfl rfl
  · exact .refl k

/-! ### One sample -/

theorem detectorMoved_setPrev {k k' : Core} {c : Chan} (h : k.DetectorMoved k' c) (m : Nat) :
    k.DetectorMoved (k'.setPrev c m) c where
  others j hj := by rw [Core.setPrev_detector, if_neg (Ne.symm hj), h.others j hj]
  moved := by
    rw [setPrev_at]
    exact h.moved

theorem Core.DetectorMoved.trans {a b c : Core} {i : Chan} (h : a.DetectorMoved b i) (g : b.DetectorMoved c i) :
    a.DetectorMoved c i := ⟨fun j hj => (g.others j hj).trans (h.others j hj), g.moved⟩

theorem detectorMoved_setDetectorState (k : Core) (c : Chan) (st : DetectorState) 
    (h : Detector.inCheck { k.detector c with state := st } = false) : k.DetectorMoved (k.setDetectorState c st) c where
  others j hj := by rw [Core.setDetectorState_detector, if_neg (Ne.symm hj)]
  moved := by rw [Core.setDetectorState_detector, if_pos rfl]; exact h

theorem detectorMoved_enterArmed (k : Core) (c : Chan) (e : Option Nat) : k.DetectorMoved (k.enterArmed c e) c where
  others j hj := by rw [Core.enterArmed_detector, if_neg (Ne.symm hj)]
  moved := by rw [Core.enterArmed_detector, if_pos rfl]; rfl

theorem detectorMoved_openHit (k : Core) (c : Chan) (i t : Nat) (x : BitVec 16) (b : Bool) :
    k.DetectorMoved (k.openHit c i t x b) c := by
  obtain ⟨-, others, hold, hd⟩ := openHit_spec k c i t x b
  exact ⟨others, by rw [hd]; rfl⟩

theorem detectorMoved_takeArmed (k : Core) (c : Chan) (i : Nat) (e : Option Nat) (t : Nat) (x : BitVec 16) :
    k.DetectorMoved (k.takeArmed c i e t x) c := by
  unfold Core.takeArmed
  dsimp only
  refine detectorMoved_setPrev ?_ _
  split
  · exact detectorMoved_openHit ..
  · exact detectorMoved_setDetectorState _ _ _ rfl

theorem Core.DetectorMoved.closeHit {k k' : Core} {c : Chan} (h : k.DetectorMoved k' c) (x : HitContext) (r : HitEnd)
    (t : Nat) : k.DetectorMoved (k'.closeHit x r t) c where
  others j hj := by rw [Core.closeHit_detector, h.others j hj]
  moved := by rw [Core.closeHit_detector, h.moved]

theorem detectorMoved_enterGuard (k : Core) (c : Chan) (t g : Nat) : k.DetectorMoved (k.enterGuard c t g) c := by
  unfold Core.enterGuard
  split
  · exact detectorMoved_enterArmed ..
  · exact detectorMoved_setDetectorState _ _ _ rfl

theorem detectorMoved_takeOpen (k : Core) (c : Chan) (i : Nat) (h : HitContext) (t : Nat) (x : BitVec 16)
    (hs : (k.detector c).inCheck = false) : k.DetectorMoved (k.takeOpen c i h t x) c := by
  have start : k.DetectorMoved k c := ⟨fun _ _ => rfl, hs⟩
  have measured : ∀ m : HitContext, k.DetectorMoved ((k.setDetectorState c (.opened m)).setPrev c (magnitude x)) c := fun m =>
    detectorMoved_setPrev (detectorMoved_setDetectorState k c _ rfl) _
  unfold Core.takeOpen
  dsimp only
  split
  · exact ((start.closeHit h .cut t).trans (detectorMoved_enterArmed ..)).trans (detectorMoved_takeArmed ..)
  · split
    · exact ((measured _).closeHit _ .normal t).trans (detectorMoved_enterGuard ..)
    · exact measured _

theorem detectorMoved_takeGuard (k : Core) (c : Chan) (g t : Nat) (x : BitVec 16)
    (hs : (k.detector c).inCheck = false) : k.DetectorMoved (k.takeGuard c g t x) c := by
  have moved : k.DetectorMoved (k.setPrev c (magnitude x)) c := detectorMoved_setPrev ⟨fun _ _ => rfl, hs⟩ _
  unfold Core.takeGuard
  dsimp only
  split
  · exact moved.trans (detectorMoved_enterArmed ..)
  · exact moved

/-- The source of a check has been watched (R120). -/
theorem Core.RunSound.watchSource {k : Core} (s : k.RunSound) (c : Chan) (crossing : Bool) (t : Nat) :
    (k.watchSource c crossing t).RunSound := by
  unfold Core.watchSource
  split
  · rename_i hf
    have hc : k.check.state ≠ .idle := by rw [hf.2]; nofun
    split
    · exact s.finishCheck hc _
    · split
      · obtain ⟨run, post, freezes⟩ := s.listening hc
        exact runSound_of_listening run post freezes (fun _ => nofun) nofun
      · exact s
  · exact s

theorem Core.RunSound.takeInCheck {k : Core} (s : k.RunSound) (c : Chan) (ctx : CheckContext) (t : Nat) (x : BitVec 16)
    (h : (k.detector c).state = .check ctx) : (k.takeInCheck c ctx t x).RunSound := by
  have hi : (k.detector c).inCheck = true := by unfold Detector.inCheck; rw [h]
  unfold Core.takeInCheck
  dsimp only
  refine Core.RunSound.watchSource (Core.RunKept.sound ?_ s) _ _ _
  refine (Core.RunKept.setDetector k c _ (fun e => ?_) (fun _ => hi)).trans (.setDetector _ c _ id id)
  rw [h] at e; cases e

theorem Core.RunSound.takeSample {k : Core} (s : k.RunSound) (c : Chan) (i t : Nat) (x : BitVec 16) :
    (k.takeSample c i t x).RunSound := by
  unfold Core.takeSample
  split
  · exact s
  · rename_i e h
    exact (Core.RunKept.of_calm (calm_takeArmed ..) (by rw [h]; nofun) (detectorMoved_takeArmed k c i e t x)).sound s
  · rename_i hit h
    have hi : (k.detector c).inCheck = false := by unfold Detector.inCheck; rw [h]
    exact (Core.RunKept.of_calm (calm_takeOpen ..) (by rw [h]; nofun) (detectorMoved_takeOpen k c i hit t x hi)).sound s
  · rename_i e h
    have hi : (k.detector c).inCheck = false := by unfold Detector.inCheck; rw [h]
    split
    · exact (Core.RunKept.of_calm ((calm_takeArmed ..).trans (calm_enterArmed ..)) (by rw [h]; nofun)
        ((detectorMoved_enterArmed k c none).trans (detectorMoved_takeArmed ..))).sound s
    · exact (Core.RunKept.of_calm (calm_takeGuard ..) (by rw [h]; nofun) (detectorMoved_takeGuard k c e t x hi)).sound s
  · rename_i ctx h
    exact s.takeInCheck c ctx t x h

/-! ### One block -/

theorem takeSamples_runSound (c : Chan) (i : Nat) (xs : List (BitVec 16)) (t : Nat) (kq : Core × Bool)
    (s : kq.1.RunSound) : (Core.takeSamples c i xs t kq).1.RunSound := by
  induction xs generalizing t kq with
  | nil => exact s
  | cons x xs ih => obtain ⟨k, q⟩ := kq; exact ih _ _ (Core.RunSound.takeSample s c i t x)

theorem runKept_growHold (k : Core) (c : Chan) (n : Nat) (h : Fin 64) : k.RunKept (k.growHold c n h) := by
  unfold Core.growHold
  split
  · exact .refl k
  · split
    · exact .refl k
    · split
      · exact .refl k
      · split <;> exact runKept_setHold ..

theorem runKept_beginBlock (k : Core) (c : Chan) (i start : Nat) (x : BitVec 16) : k.RunKept (k.beginBlock c i start x) := by
  unfold Core.beginBlock
  split
  · exact .refl k
  · exact .setDetector k c _ id id
  · rename_i h
    split
    · exact .of_calm (calm_enterArmed ..) (by rw [h]; nofun) (detectorMoved_enterArmed ..)
    · exact .refl k
  · rename_i hit _
    split
    · exact .refl k
    · unfold Core.reportBlock
      split
      · exact runKept_growHold ..
      · exact .refl k
  · exact .refl k

theorem runKept_updateNoise (k : Core) (c : Chan) (m : Nat) : k.RunKept (k.updateNoise c m) := .setDetector k c _ id id

theorem Core.RunSound.takeBlock {k : Core} (s : k.RunSound) (c : Chan) (i start : Nat) (data : Block) :
    (k.takeBlock c i start data).RunSound := by
  have taken : (Core.takeSamples c i (samplesOf data) start (k.beginBlock c i start (sampleAt data 0), true)).1.RunSound :=
    takeSamples_runSound c i _ start (_, true) ((runKept_beginBlock ..).sound s)
  unfold Core.takeBlock
  dsimp only
  split
  · exact s
  all_goals
    split
    · exact (runKept_updateNoise _ c _).sound taken
    · exact taken

theorem runKept_reportSkip (k : Core) (c : Chan) : k.RunKept (k.reportSkip c) := by
  unfold Core.reportSkip
  split
  · exact .refl k
  · rename_i hit h
    have hi : (k.detector c).inCheck = false := by unfold Detector.inCheck; rw [h]
    have start : k.DetectorMoved k c := ⟨fun _ _ => rfl, hi⟩
    refine .of_calm ?_ (by rw [h]; nofun)
      (detectorMoved_setPrev ((start.closeHit hit .broken (k.tracker c).time).trans (detectorMoved_enterArmed ..)) 0)
    rw [calm_setPrev, calm_enterArmed, calm_closeHit]
  · rename_i h
    exact .of_calm rfl (by rw [h]; nofun) (detectorMoved_setPrev (detectorMoved_setDetectorState k c _ rfl) 0)
  · exact .setDetector k c _ id id
  · exact .setDetector k c _ id id

/-! ### Stage 1 -/

/-- Placing a write leaves the run as it is: only a WAITING tracker takes its origin. -/
theorem runKept_position (k : Core) (c : Chan) (n : Nat) (full : Bool) : k.RunKept (k.position c n full).1 := by
  have skip : ∀ d, k.RunKept (k.takeSkip c n d).1 := by
    intro d
    have faulted := (runKept_raiseFault k (streamFault .skip (.acoustic c) n
      (expectedIn (k.tracker c).state (k.tracker c).expected) (some d) (k.tracker c).time)).trans (runKept_reportSkip _ c)
    unfold Core.takeSkip
    dsimp only
    split
    · exact faulted.trans (runKept_setCount ..)
    · exact (faulted.trans (runKept_setCount ..)).trans (runKept_setExpected ..)
  unfold Core.position positionOf
  dsimp only
  cases hs : (k.tracker c).state with
  | idle => exact .refl k
  | waiting =>
    cases full with
    | true => exact .setTracker k c _ (fun e => by rw [hs] at e; cases e)
    | false => exact runKept_raiseFault ..
  | tracking =>
    cases full with
    | false => exact runKept_raiseFault ..
    | true =>
      unfold trackPosition
      dsimp only
      rw [if_pos rfl]
      split <;> rename_i hp
      · exact .refl k
      · exact runKept_raiseFault ..
      · revert hp; split <;> [nofun; split] <;> [nofun; split] <;> nofun
      · exact .refl k
      · exact runKept_setExpected ..
      · exact skip _
      · exact runKept_raiseFault ..

theorem runKept_setPressureTracker (k : Core) (t : PressureTracker)
    (h : k.streams.pressure.state = .idle → t.state = .idle) : k.RunKept (k.setPressureTracker t) :=
  .setStreams k _ (fun _ => id) h

theorem runKept_pressurePosition (k : Core) (n : Nat) (full : Bool) : k.RunKept (k.pressurePosition n full).1 := by
  have skip : ∀ d, k.RunKept (k.takePressureSkip n d).1 := by
    intro d
    have faulted := runKept_raiseFault k (streamFault .skip .pressure n
      (expectedIn k.streams.pressure.state k.streams.pressure.expected) (some d) k.streams.pressure.count)
    unfold Core.takePressureSkip
    dsimp only
    split
    · exact faulted.trans (runKept_setPressureTracker _ _ id)
    · exact faulted.trans (runKept_setPressureTracker _ _ id)
  unfold Core.pressurePosition positionOf
  dsimp only
  cases hs : k.streams.pressure.state with
  | idle => exact .refl k
  | waiting =>
    cases full with
    | true => exact runKept_setPressureTracker k _ (fun e => by rw [hs] at e; cases e)
    | false => exact runKept_raiseFault ..
  | tracking =>
    cases full with
    | false => exact runKept_raiseFault ..
    | true =>
      unfold trackPosition
      dsimp only
      rw [if_pos rfl]
      split <;> rename_i hp
      · exact .refl k
      · exact runKept_raiseFault ..
      · revert hp; split <;> [nofun; split] <;> [nofun; split] <;> nofun
      · exact .refl k
      · exact runKept_setPressureTracker k _ id
      · exact skip _
      · exact runKept_raiseFault ..

/-! ### Stages 3 and 4 -/

theorem Core.RunSound.guardStage {k : Core} (s : k.RunSound) (c : Chan) (n : Nat) (absorbs : Bool) (held : Option (Fin 64))
    (start : Option Nat) : (k.guardStage c n absorbs held start).1.RunSound := by
  have frozen : (if k.freezesAtWrite c start then (k.freezeRing c .atWrite).allFrozenTest else k).RunSound := by
    split
    · rename_i hf
      refine s.ringFrozen c .atWrite ?_
      unfold Core.freezesAtWrite at hf
      split at hf
      · simp only [Bool.and_eq_true, beq_iff_eq] at hf; exact hf.1
      · cases hf
    · exact s
  unfold Core.guardStage
  dsimp only
  split
  · exact (runKept_countAbsorbed ..).sound frozen
  · exact (runKept_setLastForwarded ..).sound frozen

theorem Core.RunSound.finishIfPassed {k : Core} (s : k.RunSound) : k.finishIfPassed.RunSound := by
  unfold Core.finishIfPassed
  split
  · rename_i h
    refine s.finishCheck ?_ _
    unfold Core.windowPassed at h
    split at h
    · rename_i hc _; rw [hc]; nofun
    · cases h
  · exact s

theorem Core.RunSound.takeArrivals {k : Core} (s : k.RunSound) : k.takeArrivals.RunSound :=
  (runKept_of_events k.takeArrivals_besideEvents).sound s

theorem Core.RunSound.recomputeHorizon {k : Core} (s : k.RunSound) (found : Bool) : (k.recomputeHorizon found).RunSound := by
  have raised : (k.setHorizon k.newHorizon).RunSound := (runKept_setHorizon ..).sound s
  unfold Core.recomputeHorizon
  dsimp only
  split
  · unfold Core.handOnHorizon
    dsimp only
    have chosen : (k.setHorizon k.newHorizon).choose.2.RunSound := (runKept_setChoices _ _).sound raised
    split
    · split
      · exact chosen.finishIfPassed.takeArrivals
      · exact chosen.takeArrivals.finishIfPassed
    · exact raised.takeArrivals.finishIfPassed
  · split
    · exact raised.finishIfPassed
    · exact raised

theorem forChans_runSound {f : Core → Chan → Core} (h : ∀ (k : Core) c, k.RunSound → (f k c).RunSound) {k : Core}
    (s : k.RunSound) : (forChans f k).RunSound :=
  forChans_rel (R := fun a b => a.RunSound → b.RunSound) (fun _ => id) (fun _ _ c e s => h _ c (e s)) k s

theorem Core.RunSound.stallTest {k : Core} (s : k.RunSound) (c : Chan) : (k.stallTest c).RunSound := by
  unfold Core.stallTest
  dsimp only
  split
  · split
    · split
      · exact ((runKept_setStalled k c false).trans (runKept_markDirty _)).sound s
      · exact s
    · split
      · unfold Core.stallChannel
        refine (Core.RunKept.sound ?_ s).freezeAtOnce c .stalled
        exact (((runKept_setStalled k c true).trans (runKept_markDirty _)).trans (runKept_raiseFault _ _)).trans
          (runKept_markStalled _ c)
      · exact s
  · exact s

theorem Core.RunSound.stallTests {k : Core} (s : k.RunSound) : k.stallTests.RunSound :=
  forChans_runSound (fun _ c s => s.stallTest c) s

theorem Core.RunSound.recomputeLead {k : Core} (s : k.RunSound) : k.recomputeLead.RunSound :=
  (runKept_recomputeLead k).sound s

theorem Core.RunSound.acousticWrite {k : Core} (s : k.RunSound) (c : Chan) (n : Nat) (w : BlockWrite) :
    (k.acousticWrite c n w).1.RunSound := by
  have placed := (runKept_position k c n (w.mask == fullMask)).sound s
  have heard : ((k.position c n (w.mask == fullMask)).1.detectStage c n (k.position c n (w.mask == fullMask)).2
      w.data).RunSound := by
    unfold Core.detectStage
    split
    · exact placed.takeBlock ..
    · exact placed
  have guarded := heard.guardStage c n (k.absorbsAcoustic c n) (k.holdAt c n) (k.position c n (w.mask == fullMask)).2
  unfold Core.acousticWrite Core.timeStage
  dsimp only
  split
  · exact (((runKept_setCount ..).sound guarded).recomputeLead.stallTests).recomputeHorizon _
  · exact guarded

/-! ### The pressure ring -/

theorem runKept_freezePressure (k : Core) (st : FreezeState) (h : k.guard.pFreeze.state = .counting) :
    k.RunKept (k.freezePressure st) :=
  { Core.RunKept.refl k with pfreeze := fun e => by rw [h] at e; cases e }

theorem Core.RunSound.takePressureBlock {k : Core} (s : k.RunSound) (number : Nat) (data : Block) :
    (k.takePressureBlock number data).1.RunSound := by
  have entered : ∀ m : Monitor, m.post = k.monitor.post → (k.setMonitor m).RunSound := fun m h =>
    (Core.RunKept.setMonitor k m (by rw [h])).sound s
  have armed : ∀ (m : Monitor) l, (m.arm l).post = m.post := by
    intro m l
    unfold Monitor.arm
    split
    · split <;> rfl
    all_goals rfl
  have evaluated : ∀ k : Core, k.RunSound → (k.evaluatePhase number).RunSound := by
    intro k s
    unfold Core.evaluatePhase
    dsimp only
    split
    · exact s
    · refine Core.RunKept.sound ?_ s
      have phased : ∀ p, k.RunKept (k.setMonitor { k.monitor with phase := p }) := fun p => .setMonitor k _ rfl
      exact ((phased _).trans (runKept_markDirty _)).trans (runKept_of_aside (Core.handSheddable_aside _ _))
  have tested : ∀ k : Core, k.RunSound → k.triggerTest.RunSound := by
    intro k s
    unfold Core.triggerTest
    split
    · exact Core.RunSound.dispatchTrigger ((Core.RunKept.setMonitor k { k.monitor with arming := .spent } rfl).sound s) _
    · exact s
  unfold Core.takePressureBlock
  dsimp only
  have done := tested _ (evaluated _ (entered ((k.monitor.enterMean k.global.belowPeakTol (pressureMean data)).arm
    k.global.armLevel) (armed _ _)))
  split
  · rename_i hf
    refine (runKept_freezePressure _ _ ?_).sound done
    unfold Core.freezesAtCount at hf
    split at hf
    · simp only [Bool.and_eq_true, beq_iff_eq] at hf; exact hf.1
    · cases hf
  · exact done

theorem Core.RunSound.pressureWrite {k : Core} (s : k.RunSound) (n : Nat) (w : BlockWrite) :
    (k.pressureWrite n w).1.RunSound := by
  have placed := (runKept_pressurePosition k n (w.mask == fullMask)).sound s
  have heard : ((k.pressurePosition n (w.mask == fullMask)).1.monitorStage (k.pressurePosition n (w.mask == fullMask)).2
      w.data).1.RunSound := by
    unfold Core.monitorStage
    split
    · exact placed.takePressureBlock ..
    · exact placed
  unfold Core.pressureWrite
  dsimp only
  split
  · exact heard
  · exact (runKept_setPressureLastForwarded ..).sound heard

theorem Core.RunSound.hostAcousticWrite {k : Core} (s : k.RunSound) (c : Chan) (n : Nat) :
    (k.hostAcousticWrite c n).1.RunSound := by
  unfold Core.hostAcousticWrite
  split
  · exact (runKept_countAbsorbed ..).sound s
  · exact s

end Sys2Proof.Machine
end

section
/-! START and STOP (R21, R48, R64, R65, R88, R110, R114, R126, R128, R175, R176): what each makes of every block. -/

namespace Sys2Proof.Machine

/-! ### STOP: the check, the detectors and the grouper -/

/-- An abandoned check writes no row: its record and its state alone (R124, R126). -/
theorem endCheck_abandoned (k : Core) (a : Option AbandonCause) (q : Bool) :
    k.endCheck .abandoned a q = (k.handCheck (k.checkRecord .abandoned a q)).setCheckState .idle := by
  have h : k.updatesPath .abandoned = false := rfl
  unfold Core.endCheck
  dsimp only
  rw [h]
  rfl

/-- What abandoning a check at STOP leaves as it is (R126). -/
structure Core.Abandoned (k k' : Core) : Prop where
  streams : k'.streams = k.streams
  hits    : k'.hits = k.hits
  group   : k'.group = k.group
  guard   : k'.guard = k.guard
  monitor : k'.monitor = k.monitor
  check   : k'.check.state = .idle
  queued  : (k.check.queued.isSome = true → k.check.state ≠ .idle) → k'.check.queued = none
  unit    : k'.unit.aside = k.unit.aside
  ring    : k'.writer.ring = k.writer.ring

theorem abandonByStop_spec (k : Core) : k.Abandoned k.abandonByStop := by
  unfold Core.abandonByStop
  split
  · rw [endCheck_abandoned]
    exact ⟨rfl, rfl, rfl, rfl, rfl, rfl, fun _ => rfl, rfl, rfl⟩
  · rename_i h
    have hc : k.check.state = .idle := by
      by_contra e
      exact h ((checkRuns_iff k).2 e)
    refine ⟨rfl, rfl, rfl, rfl, rfl, hc, fun q => ?_, rfl, rfl⟩
    have : ¬ k.check.queued.isSome = true := fun e => q e hc
    simpa using this

theorem withdraws_besideDetectors (k : Core) : (forChans Core.withdraw k).besideDetectors = k.besideDetectors :=
  forChans_keeps Core.besideDetectors Core.withdraw_besideDetectors k

theorem withdraws_detector (k : Core) (j : Chan) :
    (forChans Core.withdraw k).detector j = { k.detector j with state := .idle } :=
  forChans_at (get := Core.detector) (R := fun _ _ => True) (g := fun k j => { k.detector j with state := .idle })
    (fun _ => trivial) (fun _ _ _ _ => trivial)
    (fun k c j hj => by rw [Core.withdraw_detector, if_neg (Ne.symm hj)])
    (fun k k' j _ he => by rw [Core.withdraw_detector, if_pos rfl, he]) k j

/-- STOP up to the flush of the grouper: its first three steps (R176). -/
def Core.flushedByStop (k : Core) : Core := (forChans Core.withdraw k.abandonByStop).flushGroups

theorem flushedByStop_calm (k : Core) : k.flushedByStop.calm = k.abandonByStop.calm :=
  (calm_of_events (Core.flushGroups_besideEvents _)).trans (calm_of_detectors (withdraws_besideDetectors _))

/-- What the first three steps of STOP make of the blocks. -/
structure Core.Flushed (k k' : Core) : Prop where
  streams   : k'.streams = k.streams
  detectors : ∀ c, k'.detector c = { k.detector c with state := .idle }
  nextHit   : k'.hits.nextHit = k.hits.nextHit
  arrivals  : k'.group.arrivals = []
  events    : ∀ i, look k'.group.events i = none
  path      : k'.group.path = k.group.path
  lastFwd   : k'.guard.lastFwd = k.guard.lastFwd
  pLastFwd  : k'.guard.pLastFwd = k.guard.pLastFwd
  monitor   : k'.monitor = k.monitor
  check     : k'.check.state = .idle
  queued    : (k.check.queued.isSome = true → k.check.state ≠ .idle) → k'.check.queued = none
  unit      : k'.unit.aside = k.unit.aside
  ring      : k'.writer.ring = k.writer.ring

theorem flushedByStop_spec (k : Core) : k.Flushed k.flushedByStop := by
  have A := abandonByStop_spec k
  have C := flushedByStop_calm k
  have hits : k.flushedByStop.hits = (forChans Core.withdraw k.abandonByStop).hits :=
    read_of_view (Core.flushGroups_besideEvents _) Core.hits
  exact {
    streams := (read_of_view C Core.streams).trans A.streams
    detectors := fun c => by
      have h : k.abandonByStop.detector c = k.detector c := by unfold Core.detector; rw [A.hits]
      rw [← h, ← withdraws_detector]
      unfold Core.detector
      rw [hits]
    nextHit := (congrArg Hits.nextHit hits).trans
      ((read_of_view (withdraws_besideDetectors _) (fun k : Core => k.hits.nextHit)).trans (congrArg Hits.nextHit A.hits))
    arrivals := flushGroups_arrivals _
    events := flushGroups_events _
    path := (read_of_view C (fun k : Core => k.group.path)).trans (congrArg Grouper.path A.group)
    lastFwd := (read_of_view C (fun k : Core => k.guard.lastFwd)).trans (congrArg Guard.lastFwd A.guard)
    pLastFwd := (read_of_view C (fun k : Core => k.guard.pLastFwd)).trans (congrArg Guard.pLastFwd A.guard)
    monitor := (read_of_view C Core.monitor).trans A.monitor
    check := (read_of_view C (fun k : Core => k.check.state)).trans A.check
    queued := fun h => (read_of_view C (fun k : Core => k.check.queued)).trans (A.queued h)
    unit := (read_of_view C (fun k : Core => k.unit.aside)).trans A.unit
    ring := (read_of_view C (fun k : Core => k.writer.ring)).trans A.ring }

/-! ### STOP: the freeze and the rest -/

/-- The end of the countdown at STOP changes freeze states and hands a record over (R110). -/
theorem cancelFreeze_spec (k : Core) : ∃ f p, k.cancelFreeze.besideWriter =
    (k.setGuard { k.guard with freeze := f, pFreeze := p }).besideWriter ∧ k.cancelFreeze.unit = k.unit ∧
      k.cancelFreeze.writer.ring = k.writer.ring := by
  unfold Core.cancelFreeze
  split
  · refine ⟨_, _, Core.handFreezeRecord_besideWriter _ _, ?_, ?_⟩
    · exact handFreezeRecord_keeps Core.unit (fun _ _ => rfl) _ _
    · exact handFreezeRecord_keeps (fun k => k.writer.ring) (fun _ _ => rfl) _ _
  · exact ⟨k.guard.freeze, k.guard.pFreeze, rfl, rfl, rfl⟩

theorem look_replicate {α : Type} {n : Nat} (x : α) (i : Fin n) : look (Vector.replicate n x) i = x := by
  simp [look]

/-- What STOP makes of every block (R176). -/
structure Core.Stopped (k k' : Core) : Prop where
  run       : k'.unit.run = .stopped
  unit      : k'.unit.aside = { k.unit.aside with run := .stopped }
  trackers  : ∀ c, k'.tracker c = { k.tracker c with state := .idle, frozen := false }
  pressure  : k'.streams.pressure = { k.streams.pressure with state := .idle, frozen := false }
  lead      : k'.streams.lead = k.streams.lead
  horizon   : k'.streams.horizon = k.streams.horizon
  detectors : ∀ c, k'.detector c = { k.detector c with state := .idle }
  nextHit   : k'.hits.nextHit = k.hits.nextHit
  arrivals  : k'.group.arrivals = []
  events    : ∀ i, look k'.group.events i = none
  path      : k'.group.path = k.group.path
  check     : k'.check.state = .idle
  queued    : (k.check.queued.isSome = true → k.check.state ≠ .idle) → k'.check.queued = none
  monitor   : k'.monitor = { k.monitor with post := none }
  freezes   : ∀ c, k'.freezeOf c = { state := .none, point := none }
  pfreeze   : k'.guard.pFreeze = { state := .none, point := none }
  lastFwd   : k'.guard.lastFwd = k.guard.lastFwd
  pLastFwd  : k'.guard.pLastFwd = k.guard.pLastFwd
  ring      : k'.writer.ring = k.writer.ring
  loss      : k'.writer.loss.counted = false

/-- The last steps of STOP before the LOSS record, after the countdown has been cancelled. -/
def Core.idledByStop (k : Core) : Core := (k.endFreeze.idleStreams.endStrobe).setRun .stopped

theorem idledByStop_tracker (k : Core) (c : Chan) :
    k.idledByStop.tracker c = { k.tracker c with state := .idle, frozen := false } := by
  simp [Core.tracker, Core.idledByStop, Core.idleStreams, Core.endFreeze, Core.endStrobe, Core.setRun]

theorem idledByStop_freezeOf (k : Core) (c : Chan) : k.idledByStop.freezeOf c = { state := .none, point := none } :=
  look_replicate _ c

theorem stopRun_eq (k : Core) : k.stopRun = (k.flushedByStop.cancelFreeze.idledByStop).handLossIfCounted .stop := rfl

theorem stopRun_spec (k : Core) : k.Stopped k.stopRun := by
  have D := flushedByStop_spec k
  obtain ⟨f, p, E, unit, ring⟩ := cancelFreeze_spec k.flushedByStop
  rw [stopRun_eq]
  generalize k.flushedByStop.cancelFreeze = e at E unit ring ⊢
  have Z := e.idledByStop.handLossIfCounted_aside .stop
  have streams : e.streams = k.streams := (read_of_view E Core.streams).trans D.streams
  have monitor : e.monitor = k.monitor := (read_of_view E Core.monitor).trans D.monitor
  have check : e.check = k.flushedByStop.check := read_of_view E Core.check
  have group : e.group = k.flushedByStop.group := read_of_view E Core.group
  exact {
    run := read_of_view Z (fun k : Core => k.unit.run)
    unit := (read_of_view Z (fun k : Core => k.unit.aside)).trans (by
      have h : e.unit.aside = k.unit.aside := by rw [unit]; exact D.unit
      rw [← h]; rfl)
    trackers := fun c => (read_of_view Z (fun k : Core => k.tracker c)).trans (by
      rw [idledByStop_tracker]; unfold Core.tracker; rw [streams])
    pressure := (read_of_view Z (fun k : Core => k.streams.pressure)).trans (by rw [← streams]; rfl)
    lead := (read_of_view Z (fun k : Core => k.streams.lead)).trans (by rw [← streams]; rfl)
    horizon := (read_of_view Z (fun k : Core => k.streams.horizon)).trans (by rw [← streams]; rfl)
    detectors := fun c => (read_of_view Z (fun k : Core => k.detector c)).trans
      ((read_of_view E (fun k : Core => k.detector c)).trans (D.detectors c))
    nextHit := (read_of_view Z (fun k : Core => k.hits.nextHit)).trans
      ((read_of_view E (fun k : Core => k.hits.nextHit)).trans D.nextHit)
    arrivals := (read_of_view Z (fun k : Core => k.group.arrivals)).trans ((congrArg Grouper.arrivals group).trans D.arrivals)
    events := fun i => (read_of_view Z (fun k : Core => look k.group.events i)).trans
      ((congrArg (fun g : Grouper => look g.events i) group).trans (D.events i))
    path := (read_of_view Z (fun k : Core => k.group.path)).trans ((congrArg Grouper.path group).trans D.path)
    check := (read_of_view Z (fun k : Core => k.check.state)).trans ((congrArg CheckUnit.state check).trans D.check)
    queued := fun h => (read_of_view Z (fun k : Core => k.check.queued)).trans
      ((congrArg CheckUnit.queued check).trans (D.queued h))
    monitor := (read_of_view Z Core.monitor).trans (by rw [← monitor]; rfl)
    freezes := fun c => (read_of_view Z (fun k : Core => k.freezeOf c)).trans (idledByStop_freezeOf e c)
    pfreeze := read_of_view Z (fun k : Core => k.guard.pFreeze)
    lastFwd := (read_of_view Z (fun k : Core => k.guard.lastFwd)).trans
      ((read_of_view E (fun k : Core => k.guard.lastFwd)).trans D.lastFwd)
    pLastFwd := (read_of_view Z (fun k : Core => k.guard.pLastFwd)).trans
      ((read_of_view E (fun k : Core => k.guard.pLastFwd)).trans D.pLastFwd)
    ring := (read_of_view Z (fun k : Core => k.writer.ring)).trans (ring.trans D.ring)
    loss := handLossIfCounted_counted _ _ }

end Sys2Proof.Machine
end

section
/-! The run stays sound under activations, commands and resets, and so under every step. -/

namespace Sys2Proof.Machine

/-! ### Activations -/

theorem runKept_installSettings (k : Core) (st : Settings) (paths : Option (Vector (Vector (BitVec 12) 32) 32)) :
    k.RunKept (k.installSettings st paths) := { Core.RunKept.refl k with }

theorem runKept_relayChannel (k : Core) (c : Chan) : k.RunKept (k.relayChannel c) := by
  have cleared : k.RunKept (k.clearPosition c) := .setTracker k c _ id
  exact cleared.trans (runKept_releaseList _ _)

theorem runKept_relay (k old : Core) (st : Settings) : k.RunKept (k.relay old st) := by
  have rings : k.RunKept (forChans (fun k c => if old.entryChanged st (ringEntryIndex c) then k.relayChannel c else k) k) := by
    refine .forChans (fun k c => ?_) k
    split
    · exact runKept_relayChannel k c
    · exact .refl k
  have pressure : ∀ x : Core, k.RunKept x → k.RunKept (if old.entryChanged st 32 then x.clearPressurePosition else x) := by
    intro x h
    split
    · exact h.trans (runKept_setPressureTracker x _ id)
    · exact h
  unfold Core.relay
  dsimp only
  split
  · exact (pressure _ rings).trans (.of_writer (Core.relayRecordRing_besideWriter _))
  · exact pressure _ rings

theorem runKept_withdraw (k : Core) (c : Chan) : k.RunKept (k.withdraw c) :=
  (runKept_of_holds (k.closeIfOpen_besideHolds c .withdrawn)).trans (.setDetector _ c _ (fun _ => rfl) nofun)

theorem runKept_clearStalled (k : Core) (c : Chan) : k.RunKept (k.clearStalled c) := by
  unfold Core.clearStalled
  split
  · exact (runKept_setStalled k c false).trans (runKept_markDirty _)
  · exact .refl k

theorem Core.RunSound.disableChannel {k : Core} (s : k.RunSound) (c : Chan) : (k.disableChannel c).RunSound :=
  Core.RunSound.freezeAtOnce
    ((((runKept_withdraw k c).trans (runKept_clearStalled _ c)).trans (runKept_markDisabled _ c)).sound s) c .disabled

/-- In a run a detector may take any state that agrees with the check unit. -/
theorem Core.RunSound.setDetector {k : Core} (s : k.RunSound) (run : k.unit.run ≠ .stopped) (c : Chan) (d : Detector)
    (h : k.check.state = .idle → d.inCheck = false) : (k.setDetector c d).RunSound :=
  { s with
    stopped := fun e => absurd e run
    contexts := fun e j => by
      rw [Core.detector_setDetector]
      split
      · exact h e
      · exact s.contexts e j }

theorem Core.RunSound.enableChannel {k : Core} (s : k.RunSound) (c : Chan) : (k.enableChannel c).RunSound := by
  unfold Core.enableChannel
  split
  · exact s
  · rename_i run
    split
    · rename_i hc
      have hc := (checkRuns_iff k).1 hc
      refine (runKept_setPrev _ c 0).sound ?_
      exact (s.setDetector run c _ (fun e => absurd e hc)).setDetector run c _ fun e => absurd e hc
    · refine (runKept_setPrev _ c 0).sound ?_
      refine (s.setDetector run c { k.detector c with state := .armed none } fun _ => rfl).setDetector run c _ fun _ => ?_
      show Detector.inCheck ((k.setDetectorState c (.armed none)).detector c) = false
      rw [Core.setDetectorState_detector, if_pos rfl]
      rfl

theorem Core.RunSound.changeEnabled {k : Core} (s : k.RunSound) (old : Core) : (k.changeEnabled old).RunSound := by
  unfold Core.changeEnabled
  dsimp only
  refine forChans_runSound (fun k c s => ?_) (forChans_runSound (fun k c s => ?_) s)
  · split
    · exact s.enableChannel c
    · exact s
  · split
    · exact s.disableChannel c
    · exact s

theorem Core.RunSound.followSource {k : Core} (s : k.RunSound) : k.followSource.RunSound := by
  unfold Core.followSource
  split
  · rename_i h
    exact s.finishCheck (by rw [h.1]; nofun) _
  · exact s

theorem Core.RunSound.followParticipation {k : Core} (s : k.RunSound) (old : Core) :
    (k.followParticipation old).RunSound := by
  unfold Core.followParticipation
  split
  · exact s
  · split
    · exact s.recomputeLead.stallTests.recomputeHorizon false
    · split
      · exact s.stallTests
      · exact s

theorem Core.RunSound.activate {k : Core} (s : k.RunSound) (st : Settings)
    (paths : Option (Vector (Vector (BitVec 12) 32) 32)) : (k.activate st paths).RunSound := by
  have installed := ((runKept_installSettings k st paths).trans (runKept_relay _ k st)).trans
    (.of_writer (Core.followPolicy_besideWriter _ k))
  exact ((installed.sound s).changeEnabled k).followSource.followParticipation k

theorem Core.RunSound.fetchCompleted {k : Core} (s : k.RunSound) (page : Nat) (lines : Option (List Block)) :
    (k.fetchCompleted page lines).RunSound := by
  have ended : ∀ (x : Core) a, x.RunSound → (x.endRunning a).RunSound := fun x a h =>
    h.beside (x.endRunning_besideWriter a)
  unfold Core.fetchCompleted
  split
  · dsimp only
    split
    · unfold Core.decideApply
      dsimp only
      split
      · exact ended _ _ s
      · split
        · exact ended _ _ s
        · split
          · exact ended _ _ s
          · split
            · exact ended _ _ s
            · exact ended _ _ (s.activate ..)
    · exact s.beside rfl
  · exact s
  · exact s

/-! ### Resets and commands -/

/-- Nothing runs in blocks at their reset values. -/
theorem quiet_of_reset {k : Core} (streams : k.streams = Streams.reset) (hits : k.hits = Hits.reset)
    (guard : k.guard = Guard.reset) (monitor : k.monitor = Monitor.reset) (check : k.check.state = .idle) : k.Quiet where
  trackers c := by unfold Core.tracker; rw [streams]; exact congrArg Tracker.state (look_replicate _ c)
  pressure := by rw [streams]; rfl
  detectors c := by unfold Core.detector; rw [hits]; exact congrArg Detector.state (look_replicate _ c)
  check := check
  freezes c := by unfold Core.freezeOf; rw [guard]; exact congrArg RingFreeze.state (look_replicate _ c)
  pfreeze := by rw [guard]; rfl
  post := by rw [monitor]; rfl

theorem reset_runSound (path : Vector (Vector (BitVec 12) 32) 32) (n : Nat) : (Core.reset path n).RunSound :=
  runSound_of_quiet rfl (quiet_of_reset rfl rfl rfl rfl rfl) rfl

theorem clear_runSound (k : Core) (b : Block) : (k.clear b).RunSound :=
  runSound_of_quiet rfl (quiet_of_reset rfl rfl rfl rfl rfl) rfl

theorem Core.RunSound.answer {k : Core} (s : k.RunSound) (b : Block) (r : AnswerResult) (d : AnswerDetail) :
    (k.answer b r d).RunSound := s.beside (k.answer_besideWriter b r d)

theorem startRun_detector (k : Core) (c : Chan) :
    k.startRun.detector c = startDetector (k.detector c) (k.settingsOf c) := by
  show look (tabulate _) c = _
  rw [look_tabulate]
  rfl

theorem Core.RunSound.takeStart {k : Core} (s : k.RunSound) (b : Block) : (k.takeStart b).RunSound := by
  unfold Core.takeStart
  split
  · exact s.answer ..
  · rename_i run
    split
    · exact s.answer ..
    · split
      · exact s.answer ..
      · have q := s.stopped (not_not.1 run)
        refine Core.RunSound.answer ?_ ..
        refine runSound_of_listening rfl rfl (fun c => ?_) s.queued (fun _ c => ?_)
        · have h : k.startRun.freezeOf c = RingFreeze.reset := look_replicate _ c
          rw [h]; nofun
        · rw [startRun_detector]
          unfold startDetector
          split <;> rfl

theorem Core.RunSound.takeStop {k : Core} (s : k.RunSound) (b : Block) : (k.takeStop b).RunSound := by
  unfold Core.takeStop
  split
  · exact s.answer ..
  · refine Core.RunSound.answer ?_ ..
    have h := stopRun_spec k
    refine runSound_of_quiet h.run ⟨fun c => ?_, ?_, fun c => ?_, h.check, fun c => ?_, ?_, ?_⟩ (h.queued s.queued)
    · rw [h.trackers]
    · rw [h.pressure]
    · rw [h.detectors]
    · rw [h.freezes]
    · rw [h.pfreeze]
    · rw [h.monitor]

theorem Core.RunSound.takeTriggerCommand {k : Core} (s : k.RunSound) (b : Block) : (k.takeTriggerCommand b).RunSound := by
  unfold Core.takeTriggerCommand
  split
  · exact s.answer ..
  · exact (s.dispatchTrigger .command).answer ..

theorem thaw_freezeOf (k : Core) (c : Chan) : k.thaw.freezeOf c = RingFreeze.reset := look_replicate _ c

theorem Core.RunSound.takeThaw {k : Core} (s : k.RunSound) (b : Block) : (k.takeThaw b).RunSound := by
  unfold Core.takeThaw
  split
  · exact s.answer ..
  · split
    · exact s.answer ..
    · exact (runSound_of_listening (k := k.thaw) rfl rfl (fun c => by rw [thaw_freezeOf]; nofun) s.queued s.contexts).answer ..

theorem Core.RunSound.takeCheck {k : Core} (s : k.RunSound) (run : k.unit.run = .listening) (c : Chan) (window : Nat)
    (update : Bool) : (k.takeCheck c window update).RunSound := by
  have h : (forChans Core.enterCheckAtStart k).besideDetectors = k.besideDetectors :=
    forChans_keeps Core.besideDetectors Core.enterCheckAtStart_besideDetectors k
  have counting : ∀ j, (k.freezeOf j).state ≠ .counting := fun j e => by
    have := s.counting.1 ⟨j, e⟩
    rw [run] at this; cases this
  have post : k.monitor.post = none := by
    have : ¬ k.monitor.post.isSome = true := fun e => by
      rcases s.context.1 e with e | e <;> rw [run] at e <;> cases e
    simpa using this
  refine runSound_of_listening ?_ ?_ (fun j => ?_) nofun nofun
  · exact (read_of_view h (fun k : Core => k.unit.run)).trans run
  · exact (read_of_view h (fun k : Core => k.monitor.post)).trans post
  · have e : ((k.takeCheck c window update).freezeOf j).state = (k.freezeOf j).state :=
      read_of_view h (fun k : Core => (k.freezeOf j).state)
    rw [e]
    exact counting j

theorem Core.RunSound.takeCheckCommand {k : Core} (s : k.RunSound) (b : Block) : (k.takeCheckCommand b).RunSound := by
  unfold Core.takeCheckCommand
  split
  · exact s.answer ..
  · rename_i hr
    split
    · exact s.answer ..
    · refine (s.takeCheck ?_ ..).answer ..
      by_contra run
      unfold Core.checkRefusal at hr
      rw [if_pos run] at hr
      cases hr

theorem Core.RunSound.takeRelease {k : Core} (s : k.RunSound) (b : Block) : (k.takeRelease b).RunSound := by
  unfold Core.takeRelease
  split
  · exact s.answer ..
  · exact ((runKept_releaseList k _).sound s).answer ..

theorem Core.RunSound.takeCommand {k : Core} (s : k.RunSound) (b : Block) : (k.takeCommand b).RunSound := by
  unfold Core.takeCommand
  split
  · exact clear_runSound k b
  · split
    · exact s.beside (k.refuseBusy_besideWriter b)
    · unfold Core.takeReady
      split
      · exact s.beside (k.takeApply_besideWriter b)
      · exact s.takeStart b
      · exact s.takeStop b
      · exact s.takeTriggerCommand b
      · exact s.takeThaw b
      · exact s.takeCheckCommand b
      · exact s.takeRelease b
      · exact s.beside (k.takeSnapshot_besideWriter b)
      · exact clear_runSound k b
      · exact s.answer ..

/-! ### Every operation and every step -/

theorem Core.Op.runSound {page : Nat} {k k' : Core} (h : Core.Op page k k') (s : k.RunSound) : k'.RunSound := by
  cases h with
  | acousticWrite c n w => exact s.acousticWrite c n w
  | pressureWrite n w => exact s.pressureWrite n w
  | hostAcousticWrite c n => exact s.hostAcousticWrite c n
  | raiseForeign a => exact s.beside (k.raiseForeign_besideWriter a)
  | reportPageWrite b => exact s.beside (k.reportPageWrite_besideWriter b)
  | acknowledge bits => exact s.beside (k.acknowledge_besideWriter bits)
  | hostReadReturned ps => exact (runKept_hostReadReturned k ps).sound s
  | raiseDownstream a x =>
    unfold Core.raiseDownstream
    split
    · exact (runKept_raiseFault ..).sound s
    · exact (runKept_raiseFault ..).sound s
    all_goals exact s
  | startFetch => exact s.beside k.startFetch_besideWriter
  | answerCompleted w r => exact s.beside (k.answerCompleted_besideWriter w r)
  | recordCompleted r => exact s.beside (k.recordCompleted_besideWriter r)
  | snapshotCompleted r => exact s.beside (k.snapshotCompleted_besideWriter r)
  | fetchCompleted lines => exact s.fetchCompleted page lines
  | issueAnswer | issueStatus => exact s.beside rfl
  | issueFetch | issueSnapshot => exact s.beside rfl
  | issuePlacement p => exact s.beside rfl
  | considerHead now => exact s.beside (k.considerHead_besideWriter now)
  | stallExpiry now => exact s.beside (k.stallExpiry_besideWriter now)
  | endStrobe => exact (Core.RunKept.setCheck k { k.check with strobe := false } rfl rfl).sound s
  | takeSample c i t x => exact s.takeSample c i t x
  | choose => exact (runKept_setChoices k _).sound s

theorem Core.Ops.runSound {page : Nat} {k k' : Core} (h : Core.Ops page k k') (s : k.RunSound) : k'.RunSound := by
  induction h with
  | refl => exact s
  | tail _ op ih => exact op.runSound ih

theorem Core.StepsTo.runSound {page : Nat} {k k' : Core} (h : Core.StepsTo page k k') (s : k.RunSound) : k'.RunSound := by
  rcases h with h | ⟨n, b, pss, rfl⟩
  · exact h.runSound s
  · have taken : ((k.setChoices n).takeCommand b).RunSound := ((runKept_setChoices k n).sound s).takeCommand b
    have returned := foldl_rel (R := Core.RunKept) (f := Core.hostReadReturned)
      (fun _ _ ps e => e.trans (runKept_hostReadReturned _ ps)) pss _ _ (.refl ((k.setChoices n).takeCommand b))
    exact returned.sound taken

end Sys2Proof.Machine

open Sys2Proof Sys2Proof.Machine

/-- Settles O59: each operation of a step keeps the run sound, and so do commands and resets. -/
theorem runStaysSound : Obligations.RunStaysSound := by
  intro s t sound h
  rcases step_core h with ⟨_, _, _, _, path, n, e⟩ | e
  · rw [e]; exact reset_runSound path n
  · exact e.runSound sound

end

section
/-! The horizon (R18): no operation of a step lowers it, and a command does only where it begins or ends a run. -/

namespace Sys2Proof.Machine

/-! ### The stages of a write -/

theorem raiseFault_horizon (k : Core) (i : FaultInfo) : (k.raiseFault i).streams.horizon = k.streams.horizon :=
  (tested_raiseFault k i).horizon

theorem position_horizon (k : Core) (c : Chan) (n : Nat) (full : Bool) :
    (k.position c n full).1.streams.horizon = k.streams.horizon := by
  have skip : ∀ d, (k.takeSkip c n d).1.streams.horizon = k.streams.horizon := by
    intro d
    have h : ((k.acousticFault c .skip n (some d)).reportSkip c).streams.horizon = k.streams.horizon :=
      (grows_reportSkip _ c).horizon.trans (raiseFault_horizon ..)
    unfold Core.takeSkip
    dsimp only
    split <;> exact h
  unfold Core.position
  dsimp only
  split
  · rfl
  · exact raiseFault_horizon ..
  · rfl
  · rfl
  · rfl
  · exact skip _
  · exact raiseFault_horizon ..

theorem pressurePosition_horizon (k : Core) (n : Nat) (full : Bool) :
    (k.pressurePosition n full).1.streams.horizon = k.streams.horizon := by
  have skip : ∀ d, (k.takePressureSkip n d).1.streams.horizon = k.streams.horizon := by
    intro d
    have h : (k.pressureFault .skip n (some d)).streams.horizon = k.streams.horizon := raiseFault_horizon ..
    unfold Core.takePressureSkip
    dsimp only
    split <;> exact h
  unfold Core.pressurePosition
  dsimp only
  split
  · rfl
  · exact raiseFault_horizon ..
  · rfl
  · rfl
  · rfl
  · exact skip _
  · exact raiseFault_horizon ..

theorem guardStage_horizon (k : Core) (c : Chan) (n : Nat) (absorbs : Bool) (held : Option (Fin 64)) (start : Option Nat) :
    (k.guardStage c n absorbs held start).1.streams.horizon = k.streams.horizon := by
  have frozen : (if k.freezesAtWrite c start then (k.freezeRing c .atWrite).allFrozenTest else k).streams.horizon =
      k.streams.horizon := by
    split
    · exact ((grows_freezeRing k c .atWrite).trans (grows_allFrozenTest _)).horizon
    · rfl
  unfold Core.guardStage
  dsimp only
  split
  · exact (grows_countAbsorbed _ c held).horizon.trans frozen
  · exact frozen

theorem le_recomputeHorizon (k : Core) (found : Bool) : k.streams.horizon ≤ (k.recomputeHorizon found).streams.horizon := by
  have h : (k.recomputeHorizon found).streams.horizon = k.newHorizon := (recomputeHorizon_grows k found).horizon
  rw [h]
  unfold Core.newHorizon
  split
  · exact Nat.le_refl _
  · exact Nat.le_max_left _ _

theorem stallTests_horizon (k : Core) : k.stallTests.streams.horizon = k.streams.horizon := (tested_stallTests k).horizon

theorem le_recordTime (k : Core) (c : Chan) (start : Nat) (found : Bool) :
    k.streams.horizon ≤ (k.recordTime c start found).streams.horizon := by
  have h : ((k.setCount c (start / 32 + 1)).recomputeLead.stallTests).streams.horizon = k.streams.horizon :=
    stallTests_horizon _
  rw [← h]
  exact le_recomputeHorizon _ found

theorem le_acousticWrite (k : Core) (c : Chan) (n : Nat) (w : BlockWrite) :
    k.streams.horizon ≤ (k.acousticWrite c n w).1.streams.horizon := by
  obtain ⟨placed, hp⟩ : ∃ p, p = k.position c n (w.mask == fullMask) := ⟨_, rfl⟩
  have guarded : ((placed.1.detectStage c n placed.2 w.data).guardStage c n (k.absorbsAcoustic c n) (k.holdAt c n)
      placed.2).1.streams.horizon = k.streams.horizon := by
    rw [guardStage_horizon, (grows_detectStage placed.1 c n placed.2 w.data).horizon, hp, position_horizon]
  unfold Core.acousticWrite Core.timeStage
  dsimp only
  rw [← hp, ← guarded]
  split
  · exact le_recordTime _ c _ _
  · exact Nat.le_refl _

theorem takePressureBlock_horizon (k : Core) (number : Nat) (data : Block) :
    (k.takePressureBlock number data).1.streams.horizon = k.streams.horizon := by
  have evaluated : ∀ k : Core, (k.evaluatePhase number).streams.horizon = k.streams.horizon := by
    intro k
    unfold Core.evaluatePhase
    dsimp only
    split
    · rfl
    · exact (grows_handSheddable _ _).horizon
  have tested : ∀ k : Core, k.triggerTest.streams.horizon = k.streams.horizon := by
    intro k
    unfold Core.triggerTest
    split
    · exact (grows_dispatchTrigger (k.setMonitor { k.monitor with arming := .spent }) .pressure).horizon
    · rfl
  unfold Core.takePressureBlock
  dsimp only
  split
  · exact (tested _).trans (evaluated _)
  · exact (tested _).trans (evaluated _)

theorem pressureWrite_horizon (k : Core) (n : Nat) (w : BlockWrite) :
    (k.pressureWrite n w).1.streams.horizon = k.streams.horizon := by
  have heard : ((k.pressurePosition n (w.mask == fullMask)).1.monitorStage (k.pressurePosition n (w.mask == fullMask)).2
      w.data).1.streams.horizon = k.streams.horizon := by
    unfold Core.monitorStage
    split
    · exact (takePressureBlock_horizon _ _ _).trans (pressurePosition_horizon ..)
    · exact pressurePosition_horizon ..
  unfold Core.pressureWrite
  dsimp only
  split <;> exact heard

/-! ### Activations -/

theorem relayChannel_horizon (k : Core) (c : Chan) : (k.relayChannel c).streams.horizon = k.streams.horizon := by
  unfold Core.relayChannel
  dsimp only
  rw [(releaseList_keeps ((k.clearPosition c).channelHolds c) (k.clearPosition c)).1]
  rfl

theorem relay_horizon (k old : Core) (st : Settings) : (k.relay old st).streams.horizon = k.streams.horizon := by
  have rings : (forChans (fun k c => if old.entryChanged st (ringEntryIndex c) then k.relayChannel c else k) k).streams.horizon =
      k.streams.horizon := by
    refine forChans_keeps (fun k => k.streams.horizon) (fun k c => ?_) k
    split
    · exact relayChannel_horizon k c
    · rfl
  have pressure : ∀ x : Core,
      (if old.entryChanged st 32 then x.clearPressurePosition else x).streams.horizon = x.streams.horizon := by
    intro x
    split <;> rfl
  unfold Core.relay
  dsimp only
  split
  · exact (read_of_view (Core.relayRecordRing_besideWriter _) fun k => k.streams.horizon).trans ((pressure _).trans rings)
  · exact (pressure _).trans rings

theorem clearStalled_horizon (k : Core) (c : Chan) : (k.clearStalled c).streams.horizon = k.streams.horizon := by
  unfold Core.clearStalled
  split <;> rfl

theorem disableChannel_horizon (k : Core) (c : Chan) : (k.disableChannel c).streams.horizon = k.streams.horizon := by
  unfold Core.disableChannel
  rw [(grows_freezeAtOnce _ c _).horizon, (grows_markDisabled _ c).horizon, clearStalled_horizon, (grows_withdraw k c).horizon]

theorem enableChannel_horizon (k : Core) (c : Chan) : (k.enableChannel c).streams.horizon = k.streams.horizon := by
  unfold Core.enableChannel
  split
  · rfl
  · split
    · exact ((grows_enterCheck k c).trans (grows_setPrev _ c 0)).horizon
    · exact ((grows_enterArmed k c none).trans (grows_setPrev _ c 0)).horizon

theorem changeEnabled_horizon (k old : Core) : (k.changeEnabled old).streams.horizon = k.streams.horizon := by
  unfold Core.changeEnabled
  dsimp only
  refine (forChans_keeps (fun k => k.streams.horizon) (fun k c => ?_) _).trans
    (forChans_keeps (fun k => k.streams.horizon) (fun k c => ?_) k)
  · split
    · exact enableChannel_horizon k c
    · rfl
  · split
    · exact disableChannel_horizon k c
    · rfl

theorem followSource_horizon (k : Core) : k.followSource.streams.horizon = k.streams.horizon := by
  unfold Core.followSource
  split
  · exact (grows_finishCheck k _).horizon
  · rfl

theorem le_followParticipation (k old : Core) : k.streams.horizon ≤ (k.followParticipation old).streams.horizon := by
  unfold Core.followParticipation
  split
  · exact Nat.le_refl _
  · split
    · have h : k.recomputeLead.stallTests.streams.horizon = k.streams.horizon := stallTests_horizon _
      rw [← h]
      exact le_recomputeHorizon _ false
    · split
      · exact Nat.le_of_eq (stallTests_horizon k).symm
      · exact Nat.le_refl _

theorem le_activate (k : Core) (st : Settings) (paths : Option (Vector (Vector (BitVec 12) 32) 32)) :
    k.streams.horizon ≤ (k.activate st paths).streams.horizon := by
  have installed : (((k.installSettings st paths).relay k st).followPolicy k).streams.horizon = k.streams.horizon :=
    (read_of_view (Core.followPolicy_besideWriter _ k) fun k => k.streams.horizon).trans (relay_horizon _ k st)
  have h := le_followParticipation ((((k.installSettings st paths).relay k st).followPolicy k).changeEnabled k).followSource k
  rw [followSource_horizon, changeEnabled_horizon, installed] at h
  exact h

theorem le_fetchCompleted (k : Core) (page : Nat) (lines : Option (List Block)) :
    k.streams.horizon ≤ (k.fetchCompleted page lines).streams.horizon := by
  unfold Core.fetchCompleted
  split
  · dsimp only
    split
    · unfold Core.decideApply
      dsimp only
      split
      · exact Nat.le_refl _
      · split
        · exact Nat.le_refl _
        · split
          · exact Nat.le_refl _
          · split
            · exact Nat.le_refl _
            · exact le_activate k _ _
    · exact Nat.le_refl _
  · exact Nat.le_refl _
  · exact Nat.le_refl _

/-! ### Operations, commands and steps -/

theorem hostReadReturned_keeps (k : Core) (ps : List Place) :
    (k.hostReadReturned ps).streams = k.streams ∧ (k.hostReadReturned ps).unit.run = k.unit.run := by
  obtain ⟨streams, _, _, _, _, unit, _⟩ := releaseList_keeps (k.holdsWhere fun _ x =>
    x.state == .held && x.release == .onRead && (acousticIndices x.chan ps).contains (x.last (k.ringSize x.chan))) k
  have h := Core.drainRead_besideWriter (k.readRelease ps) ps
  exact ⟨(read_of_view h Core.streams).trans streams,
    (read_of_view h fun k => k.unit.run).trans (congrArg CommandUnit.run unit)⟩

theorem Core.Op.le_horizon {page : Nat} {k k' : Core} (h : Core.Op page k k') : k.streams.horizon ≤ k'.streams.horizon := by
  have beside : k'.besideWriter = k.besideWriter → k.streams.horizon ≤ k'.streams.horizon := fun e =>
    Nat.le_of_eq (read_of_view e fun k => k.streams.horizon).symm
  cases h with
  | acousticWrite c n w => exact le_acousticWrite k c n w
  | pressureWrite n w => exact Nat.le_of_eq (pressureWrite_horizon k n w).symm
  | hostAcousticWrite c n =>
    unfold Core.hostAcousticWrite
    split
    · exact Nat.le_of_eq (grows_countAbsorbed k c _).horizon.symm
    · exact Nat.le_refl _
  | raiseForeign a => exact Nat.le_of_eq (raiseFault_horizon ..).symm
  | reportPageWrite b => exact beside (k.reportPageWrite_besideWriter b)
  | acknowledge bits => exact Nat.le_refl _
  | hostReadReturned ps => exact Nat.le_of_eq (congrArg Streams.horizon (hostReadReturned_keeps k ps).1).symm
  | raiseDownstream a x =>
    unfold Core.raiseDownstream
    split
    · exact Nat.le_of_eq (raiseFault_horizon ..).symm
    · exact Nat.le_of_eq (raiseFault_horizon ..).symm
    all_goals exact Nat.le_refl _
  | startFetch => exact beside k.startFetch_besideWriter
  | answerCompleted w r => exact beside (k.answerCompleted_besideWriter w r)
  | recordCompleted r => exact beside (k.recordCompleted_besideWriter r)
  | snapshotCompleted r => exact beside (k.snapshotCompleted_besideWriter r)
  | fetchCompleted lines => exact le_fetchCompleted k page lines
  | issueAnswer | issueStatus | issueFetch | issueSnapshot | issuePlacement => exact Nat.le_refl _
  | considerHead now => exact beside (k.considerHead_besideWriter now)
  | stallExpiry now => exact beside (k.stallExpiry_besideWriter now)
  | endStrobe => exact Nat.le_refl _
  | takeSample c i t x => exact Nat.le_of_eq (grows_takeSample k c i t x).horizon.symm
  | choose => exact Nat.le_refl _

theorem takeStop_horizon (k : Core) (b : Block) (before : k.unit.run ≠ .stopped) (after : (k.takeStop b).unit.run ≠ .stopped) :
    (k.takeStop b).streams.horizon = k.streams.horizon := by
  unfold Core.takeStop at after
  rw [if_neg before] at after
  have same : (k.stopRun.answer b .done .plain).unit.run = k.stopRun.unit.run :=
    read_of_view (Core.answer_besideWriter ..) fun k => k.unit.run
  exact absurd (same.trans (stopRun_spec k).run) after

/-- A command in a run that leaves a run keeps the horizon: START is refused there, and STOP and CLEAR end the run. -/
theorem takeCommand_horizon (k : Core) (b : Block) (before : k.unit.run ≠ .stopped)
    (after : (k.takeCommand b).unit.run ≠ .stopped) : (k.takeCommand b).streams.horizon = k.streams.horizon := by
  unfold Core.takeCommand at after ⊢
  split at after <;> rename_i hc
  · exact absurd rfl after
  rw [if_neg hc]
  split at after <;> rename_i hb
  · rw [if_pos hb]; rfl
  rw [if_neg hb]
  unfold Core.takeReady at after ⊢
  split at after
  · rfl
  · unfold Core.takeStart; rw [if_pos before]; rfl
  · exact takeStop_horizon k b before after
  · unfold Core.takeTriggerCommand
    split
    · rfl
    · exact (grows_dispatchTrigger k .command).horizon
  · unfold Core.takeThaw
    split
    · rfl
    · split <;> rfl
  · unfold Core.takeCheckCommand
    split
    · rfl
    · split
      · rfl
      · exact read_of_view (forChans_keeps Core.besideDetectors Core.enterCheckAtStart_besideDetectors k)
          fun k => k.streams.horizon
  · unfold Core.takeRelease
    split
    · rfl
    · exact congrArg Streams.horizon (releaseList_keeps _ k).1
  · exact read_of_view (k.takeSnapshot_besideWriter b) fun k => k.streams.horizon
  · exact absurd rfl after
  · rfl

theorem Core.StepsTo.le_horizon {page : Nat} {k k' : Core} (h : Core.StepsTo page k k') (before : k.unit.run ≠ .stopped)
    (after : k'.unit.run ≠ .stopped) : k.streams.horizon ≤ k'.streams.horizon := by
  rcases h with h | ⟨n, b, pss, rfl⟩
  · clear after
    induction h with
    | refl => exact Nat.le_refl _
    | tail _ op ih => exact ih.trans op.le_horizon
  · have streams := foldl_keeps (f := Core.hostReadReturned) Core.streams (fun k ps => (hostReadReturned_keeps k ps).1) pss
      ((k.setChoices n).takeCommand b)
    have run := foldl_keeps (f := Core.hostReadReturned) (fun k => k.unit.run) (fun k ps => (hostReadReturned_keeps k ps).2) pss
      ((k.setChoices n).takeCommand b)
    rw [streams]
    exact Nat.le_of_eq (takeCommand_horizon (k.setChoices n) b before (fun e => after (run.trans e))).symm

end Sys2Proof.Machine

open Sys2Proof Sys2Proof.Machine

/-- Settles O60: no operation lowers the horizon, and a command that finds and leaves a run keeps it. -/
theorem horizonNeverFalls : Obligations.HorizonNeverFalls := by
  intro s t h noReset before after
  rcases step_core h with ⟨c, rest, hp, hc, _⟩ | e
  · obtain ⟨noLink, noPower⟩ := noReset c rest hp
    cases c with
    | powerOn straps => exact absurd rfl (noPower straps)
    | linkReset => exact absurd rfl noLink
    | _ => cases hc
  · exact e.le_horizon before after

end

section
/-! The reset values of every block, and what power-on and link reset leave. -/

namespace Sys2Proof.Machine

theorem reset_allReset (path : Vector (Vector (BitVec 12) 32) 32) (n : Nat) : (Core.reset path n).AllReset where
  trackers := look_replicate _
  pressure := rfl
  times := ⟨rfl, rfl⟩
  detectors := look_replicate _
  nextHit := rfl
  arrivals := ⟨rfl, rfl⟩
  events := ⟨look_replicate _, rfl⟩
  counts := ⟨rfl, rfl, rfl, rfl⟩
  holds := look_replicate _
  forwarded := ⟨look_replicate _, rfl⟩
  freezes := ⟨look_replicate _, rfl⟩
  monitor := rfl
  check := ⟨rfl, rfl, rfl⟩
  queue := ⟨rfl, rfl, rfl⟩
  ring := ⟨rfl, rfl, rfl, rfl⟩
  loss := ⟨look_replicate _, rfl, rfl, rfl, rfl, rfl, rfl⟩
  marks := ⟨rfl, rfl, rfl, rfl⟩
  unit := ⟨rfl, rfl, rfl, rfl, rfl⟩

theorem commandUnit_reset_fresh : CommandUnit.reset.Fresh where
  settings := ⟨rfl, rfl⟩
  due := rfl
  latest := rfl
  refusal := ⟨rfl, rfl⟩

theorem pathReset_never (f j : Fin 32) : look (look pathReset f) j = never := by
  unfold pathReset
  rw [look_replicate, look_replicate]

/-! ### The invariants at reset -/

theorem reset_portSound (p : Port) : State.reset.PortSound p := by
  cases p with
  | acquisition | host =>
    exact { bound := Nat.zero_le _, settled := rfl, ordered := List.Pairwise.nil, agrees := rfl }

theorem reset_linkSound : State.reset.LinkSound where
  acq := reset_portSound .acquisition
  host := reset_portSound .host
  bound := Nat.zero_le _
  kept := fun _ h => absurd h List.not_mem_nil

theorem reset_commandSound : State.reset.CommandSound where
  running := fun _ => rfl
  due := Nat.zero_le _
  valid := fun _ h => nomatch h
  applied := rfl

theorem reset_ringSound (path : Vector (Vector (BitVec 12) 32) 32) (n : Nat) : (Core.reset path n).RingSound where
  bound := Nat.zero_le _
  drain := Nat.zero_lt_one
  produce := rfl
  placement := fun _ h => nomatch h
  absent := fun _ => ⟨rfl, rfl, rfl, rfl⟩

theorem reset_groupingSound (path : Vector (Vector (BitVec 12) 32) 32) (n : Nat) : (Core.reset path n).GroupingSound where
  buffers := { means := Nat.zero_le _, arrivals := Nat.zero_le _, ordered := List.Pairwise.nil }
  arrivals := fun _ h => absurd h List.not_mem_nil
  events := by
    intro i e h
    have none : look (Core.reset path n).group.events i = none := look_replicate _ i
    rw [none] at h
    cases h

end Sys2Proof.Machine

open Sys2Proof Sys2Proof.Machine

/-- Settles O54: the reset values meet each invariant. -/
theorem resetIsSound : Obligations.ResetIsSound :=
  ⟨reset_linkSound, reset_commandSound, reset_ringSound pathReset 0, reset_groupingSound pathReset 0,
    reset_runSound pathReset 0, rfl⟩

/-- Settles O3: POWER_ON leads to the power-on state, with the queued commands kept. -/
theorem powerOnResets : Obligations.PowerOnResets := fun _ s =>
  ⟨_, rfl, rfl, reset_allReset pathReset s.core.choices, commandUnit_reset_fresh, pathReset_never, rfl, rfl, rfl, rfl, rfl, rfl,
    rfl, rfl, rfl, rfl, rfl⟩

/-- Settles O4: LINK_RESET puts every block to its reset value, empties the queues and keeps straps, links and path table. -/
theorem linkResetDrops : Obligations.LinkResetDrops := fun s =>
  ⟨_, rfl, rfl, rfl, rfl, reset_allReset s.core.group.path s.core.choices, commandUnit_reset_fresh, rfl, rfl, rfl, rfl, rfl, rfl,
    rfl, rfl, rfl, rfl, rfl, rfl⟩

end

section
/-! START and STOP as commands (R175, R176). -/

namespace Sys2Proof.Machine

/-! ### START -/

theorem takeStart_taken {k : Core} (b : Block) (run : k.unit.run = .stopped) (applied : k.unit.applied = true)
    (trigger : k.writer.unplacedTrigger = false) (freeze : k.writer.unplacedFreeze = false) :
    k.takeStart b = k.startRun.answer b .done .plain := by
  simp [Core.takeStart, run, applied, trigger, freeze]

theorem startRun_tracker (k : Core) (c : Chan) : k.startRun.tracker c = startTracker (k.hasRing c) := by
  show look (tabulate _) c = _
  rw [look_tabulate]

theorem startRun_lastForwarded (k : Core) (c : Chan) : k.startRun.lastForwarded c = none := look_replicate _ c

theorem startRun_freezeOf (k : Core) (c : Chan) : k.startRun.freezeOf c = RingFreeze.reset := look_replicate _ c

theorem startRun_events (k : Core) (i : Fin 8) : look k.startRun.group.events i = none := look_replicate _ i

/-! ### STOP -/

theorem Core.Stopped.settings {k k' : Core} (h : k.Stopped k') : k'.unit.settings = k.unit.settings := by
  have same := congrArg CommandUnit.settings h.unit
  exact same

theorem Core.Stopped.due {k k' : Core} (h : k.Stopped k') : k'.unit.due = k.unit.due := by
  have same := congrArg CommandUnit.due h.unit
  exact same

theorem takeStop_taken {k : Core} (b : Block) (run : k.unit.run ≠ .stopped) :
    k.takeStop b = k.stopRun.answer b .done .plain := by
  simp [Core.takeStop, run]

end Sys2Proof.Machine

open Sys2Proof Sys2Proof.Machine

/-- Settles O9: in READY the command is taken at once, and each block is as its set-up at START leaves it. -/
theorem startSetsUpRun : Obligations.StartSetsUpRun := by
  intro w s ready busy kind run applied trigger freeze
  obtain ⟨t, ht, page, core⟩ := command_run (i := .start w) ready busy kind nofun nofun rfl
  have taken : t.core = s.core.startRun.answer (pageData w) .done .plain := by
    rw [core, ← takeStart_taken (pageData w) run applied trigger freeze]
    simp [Core.takeReady, kind]
  have due : s.core.startRun.unit.due = [] := (busy_due busy).2
  rw [answer_eq due] at taken
  refine ⟨t, ht, page, ?_⟩
  rw [taken]
  exact ⟨startRun_tracker s.core, rfl, rfl, rfl, startRun_detector s.core, rfl, rfl, rfl, startRun_events s.core, rfl, rfl, rfl,
    rfl, rfl, rfl, rfl, startRun_lastForwarded s.core, rfl, startRun_freezeOf s.core, rfl, rfl, rfl, rfl, rfl⟩

/-- Settles O10: in READY the command is taken at once, and each block is as STOP leaves it. -/
theorem stopEndsRun : Obligations.StopEndsRun := by
  intro w s ready busy kind run
  obtain ⟨t, ht, page, core⟩ := command_run (i := .stop w) ready busy kind nofun nofun rfl
  have stopped := stopRun_spec s.core
  have taken : t.core = s.core.stopRun.answer (pageData w) .done .plain := by
    rw [core, ← takeStop_taken (pageData w) run]
    simp [Core.takeReady, kind]
  generalize s.core.stopRun = e at stopped taken
  rw [answer_eq (stopped.due.trans (busy_due busy).2)] at taken
  refine ⟨t, ht, page, ?_⟩
  rw [taken]
  exact ⟨stopped.run, stopped.settings, rfl, stopped.trackers, stopped.pressure, stopped.lead, stopped.horizon, stopped.detectors,
    stopped.nextHit, stopped.arrivals, stopped.events, stopped.path, stopped.check, stopped.monitor, stopped.freezes,
    stopped.pfreeze, stopped.lastFwd, stopped.pLastFwd, congrArg RingView.produce stopped.ring,
    congrArg RingView.drain stopped.ring, congrArg RingView.occupancy stopped.ring, congrArg RingView.nextNumber stopped.ring,
    congrArg RingView.halted stopped.ring, stopped.loss⟩

end

section
/-! Ring writes that are placed in no stream (R4, R8 to R10, R12, R13, R78, R80, R81): what the guard alone decides, and the
fault of a PARTIAL or REWRITE write. -/

namespace Sys2Proof.Machine

/-! ### A write at a port that can accept -/

theorem acousticRingWrite_taken {s : State} {w : BlockWrite} {c : Chan} {n : Nat} (ready : s.Ready .acquisition)
    (place : s.place w.addr.toNat = .acoustic c n) :
    ∃ t, exec (.acousticRingWrite w) s = .next t ∧ s.AcquisitionTaken t w (s.core.acousticWrite c n w).2 ∧
      t.core = (s.core.acousticWrite c n w).1 := by
  obtain ⟨taken, core⟩ := acquisition_taken s w ready
  rw [takeAcq_acoustic s w place] at taken core
  exact ⟨_, rfl, taken, core⟩

theorem pressureRingWrite_taken {s : State} {w : BlockWrite} {n : Nat} (ready : s.Ready .acquisition)
    (place : s.place w.addr.toNat = .pressure n) :
    ∃ t, exec (.pressureRingWrite w) s = .next t ∧ s.AcquisitionTaken t w (s.core.pressureWrite n w).2 ∧
      t.core = (s.core.pressureWrite n w).1 := by
  obtain ⟨taken, core⟩ := acquisition_taken s w ready
  rw [takeAcq_pressure s w place] at taken core
  exact ⟨_, rfl, taken, core⟩

theorem hostRingWrite_taken {s : State} {w : BlockWrite} (ready : s.Ready .host)
    (place : ∀ c, s.place w.addr.toNat ≠ .control c) :
    ∃ t, exec (.hostRingWrite w) s = .next t ∧ s.HostWriteTaken t w (s.takeHostWrite w).2 ∧
      t.core = (s.takeHostWrite w).1.core := by
  obtain ⟨taken, core⟩ := host_write_taken s w ready (.inl place)
  exact ⟨_, rfl, taken, core⟩

theorem takeHostWrite_acoustic {s : State} {w : BlockWrite} {c : Chan} {n : Nat} (place : s.place w.addr.toNat = .acoustic c n) :
    s.takeHostWrite w = (s.setCore (s.core.hostAcousticWrite c n).1, (s.core.hostAcousticWrite c n).2) := by
  unfold State.takeHostWrite
  rw [place]

theorem takeHostWrite_pressure {s : State} {w : BlockWrite} {n : Nat} (place : s.place w.addr.toNat = .pressure n) :
    s.takeHostWrite w = (s.setCore s.core, s.core.streams.pressure.frozen) := by
  unfold State.takeHostWrite
  rw [place]
  rfl

theorem hostAcousticWrite_eq (k : Core) (c : Chan) (n : Nat) :
    k.hostAcousticWrite c n = if k.absorbsAcoustic c n then (k.countAbsorbed c (k.holdAt c n), true) else (k, false) := rfl

/-! ### Trackers that place nothing -/

/-- A tracker in IDLE or at its count limit looks at no full write (R4, R10, log 15). -/
theorem positionOf_quiet {st : TrackerState} {size expected count limit n : Nat} {mask : Mask}
    (h : st = .idle ∨ (st = .tracking ∧ mask = BitVec.allOnes 64 ∧ count = limit)) :
    positionOf st (mask == fullMask) size expected count limit n = .idle ∨
      positionOf st (mask == fullMask) size expected count limit n = .atLimit := by
  rcases h with rfl | ⟨rfl, full, rfl⟩
  · exact .inl rfl
  · have hm : (mask == fullMask) = true := beq_iff_eq.2 full
    rw [hm]
    exact .inr (by simp [positionOf, trackPosition])

theorem position_quiet {k : Core} {c : Chan} {n : Nat} {mask : Mask}
    (h : (k.tracker c).state = .idle ∨
      ((k.tracker c).state = .tracking ∧ mask = BitVec.allOnes 64 ∧ (k.tracker c).count = 2 ^ 35 - 1)) :
    k.position c n (mask == fullMask) = (k, none) := by
  unfold Core.position maxCount
  dsimp only
  rcases positionOf_quiet h with e | e <;> rw [e]

theorem pressurePosition_quiet {k : Core} {n : Nat} {mask : Mask}
    (h : k.streams.pressure.state = .idle ∨
      (k.streams.pressure.state = .tracking ∧ mask = BitVec.allOnes 64 ∧ k.streams.pressure.count = 2 ^ 32 - 1)) :
    k.pressurePosition n (mask == fullMask) = (k, none) := by
  unfold Core.pressurePosition maxPressureCount
  dsimp only
  rcases positionOf_quiet h with e | e <;> rw [e]

/-! ### PARTIAL and REWRITE -/

/-- The position test names the fault of an unplaced write, and the expected index that it carries (R8, R9, R13). -/
theorem Unplaced.position {st : TrackerState} {expected size count limit n : Nat} {mask : Mask} {kind : FaultKind}
    {named : Option Nat} (h : Unplaced st expected size count limit n mask kind named) :
    named = expectedIn st expected ∧
      ((kind = .partialWrite ∧ positionOf st (mask == fullMask) size expected count limit n = .partialWrite) ∨
        (kind = .rewrite ∧ positionOf st (mask == fullMask) size expected count limit n = .rewrite)) := by
  rcases h with ⟨rfl, notFull, place⟩ | ⟨rfl, full, rfl, rfl, below, far, apart⟩
  · have hm : (mask == fullMask) = false := by simpa [fullMask] using notFull
    rw [hm]
    rcases place with ⟨rfl, rfl⟩ | ⟨rfl, rfl⟩ <;> exact ⟨rfl, .inl ⟨rfl, rfl⟩⟩
  · have hm : (mask == fullMask) = true := beq_iff_eq.2 full
    rw [hm]
    refine ⟨rfl, .inr ⟨rfl, ?_⟩⟩
    simp [positionOf, trackPosition, distance, Nat.not_le.2 below, apart, Nat.not_lt.2 far]

theorem position_unplaced {k : Core} {c : Chan} {n : Nat} {mask : Mask} {kind : FaultKind} {named : Option Nat}
    (h : Unplaced (k.tracker c).state (k.tracker c).expected (k.ringSize c) (k.tracker c).count (2 ^ 35 - 1) n mask kind named) :
    k.position c n (mask == fullMask) =
      (k.raiseFault (streamFault kind (.acoustic c) n named none (k.tracker c).time), none) := by
  obtain ⟨rfl, place⟩ := h.position
  unfold Core.position maxCount
  dsimp only
  rcases place with ⟨rfl, e⟩ | ⟨rfl, e⟩ <;> (rw [e]; rfl)

theorem pressurePosition_unplaced {k : Core} {n : Nat} {mask : Mask} {kind : FaultKind} {named : Option Nat}
    (h : Unplaced k.streams.pressure.state k.streams.pressure.expected k.pressureEntry.size k.streams.pressure.count (2 ^ 32 - 1)
      n mask kind named) :
    k.pressurePosition n (mask == fullMask) =
      (k.raiseFault (streamFault kind .pressure n named none k.streams.pressure.count), none) := by
  obtain ⟨rfl, place⟩ := h.position
  unfold Core.pressurePosition maxPressureCount
  dsimp only
  rcases place with ⟨rfl, e⟩ | ⟨rfl, e⟩ <;> (rw [e]; rfl)

/-- A fault raised while no FAULT record is queued (R132). -/
theorem raiseFault_first (k : Core) (i : FaultInfo) (h : ∀ r ∈ k.writer.queue, r.isFault = false) :
    k.raiseFault i = { k with
      streams := (k.countFault i.place).streams
      writer := { k.writer with queue := k.writer.queue ++ [k.faultRecord i] }
      unit := k.unit.raised 64 } := by
  rw [raiseFault_eq, mergeYoungest_none fun r hr => mergeFault_none (h r hr)]
  rfl

/-- The blocks after the fault of an unplaced acoustic write, before the guard. -/
def Core.faulted (k : Core) (c : Chan) (i : FaultInfo) : Core :=
  { k with
    streams := (k.countFault (.acoustic c)).streams
    writer := { k.writer with queue := k.writer.queue ++ [k.faultRecord i] }
    unit := k.unit.raised 64 }

theorem Core.faulted_tracker (k : Core) (c : Chan) (i : FaultInfo) (j : Chan) : (k.faulted c i).tracker j =
    if c = j then { k.tracker j with faults := min ((k.tracker j).faults + 1) 65535 } else k.tracker j :=
  countFault_tracker k c j

/-- What an unplaced acoustic write makes of the blocks, `absorbed` being the guard's decision. -/
structure Core.UnplacedTaken (k k' : Core) (c : Chan) (n : Nat) (i : FaultInfo) (absorbed : Bool) : Prop where
  tracker : k'.tracker c = { k.tracker c with
    faults := min ((k.tracker c).faults + 1) 65535
    absorbed := if absorbed then min ((k.tracker c).absorbed + 1) 65535 else (k.tracker c).absorbed }
  others  : ∀ j, j ≠ c → k'.tracker j = k.tracker j
  lead    : k'.streams.lead = k.streams.lead
  horizon : k'.streams.horizon = k.streams.horizon
  writer  : k'.writer = { k.writer with queue := k.writer.queue ++ [k.faultRecord i] }
  unit    : k'.unit = k.unit.raised 64
  lastFwd : k'.lastForwarded c = if absorbed then k.lastForwarded c else some n
  hits    : k'.hits = k.hits
  group   : k'.group = k.group
  monitor : k'.monitor = k.monitor
  check   : k'.check = k.check
  freeze  : k'.guard.freeze = k.guard.freeze

theorem unplaced_absorbed (k : Core) (c : Chan) (n : Nat) (i : FaultInfo) :
    k.UnplacedTaken ((k.faulted c i).countAbsorbed c (k.holdAt c n)) c n i true := by
  have h : (k.faulted c i).CountedAbsorbed ((k.faulted c i).countAbsorbed c (k.holdAt c n)) c n :=
    countAbsorbed_spec (k.faulted c i) c n
  obtain ⟨lead, horizon⟩ := h.times
  obtain ⟨lastFwd, freeze, _, _⟩ := h.guard
  obtain ⟨hits, group, monitor, check, writer, unit⟩ := h.rest
  refine ⟨?_, fun j hj => ?_, lead, horizon, writer, unit, ?_, hits, group, monitor, check, freeze⟩
  · rw [h.tracker, if_pos rfl, Core.faulted_tracker, if_pos rfl]
    rfl
  · rw [h.tracker, if_neg hj, Core.faulted_tracker, if_neg (Ne.symm hj)]
  · unfold Core.lastForwarded
    rw [lastFwd]
    rfl

theorem unplaced_forwarded (k : Core) (c : Chan) (n : Nat) (i : FaultInfo) :
    k.UnplacedTaken ((k.faulted c i).setLastForwarded c n) c n i false := by
  refine ⟨?_, fun j hj => ?_, rfl, rfl, rfl, rfl, ?_, rfl, rfl, rfl, rfl, rfl⟩
  · refine (Core.faulted_tracker k c i c).trans ?_
    rw [if_pos rfl]
    rfl
  · exact (Core.faulted_tracker k c i j).trans (if_neg (Ne.symm hj))
  · exact look_put_self ..

theorem acousticWrite_fault {k : Core} {c : Chan} {n : Nat} {w : BlockWrite} {kind : FaultKind} {named : Option Nat}
    (fresh : ∀ r ∈ k.writer.queue, r.isFault = false)
    (h : Unplaced (k.tracker c).state (k.tracker c).expected (k.ringSize c) (k.tracker c).count (2 ^ 35 - 1) n w.mask kind named) :
    ∃ absorbed, (k.acousticWrite c n w).2 = absorbed ∧ (absorbed = true ↔ k.Protected c n) ∧
      k.UnplacedTaken (k.acousticWrite c n w).1 c n (streamFault kind (.acoustic c) n named none (k.tracker c).time) absorbed := by
  refine ⟨_, rfl, ?_⟩
  rw [acousticWrite_unplaced (position_unplaced h), raiseFault_first k _ fresh, ← absorbsAcoustic_iff]
  split <;> rename_i guarded
  · exact ⟨by simp [guarded], unplaced_absorbed ..⟩
  · exact ⟨by simp [guarded], unplaced_forwarded ..⟩

end Sys2Proof.Machine

open Sys2Proof Sys2Proof.Machine

/-- Settles O18: a write that the tracker does not look at goes to the guard alone, and so does every host write. -/
theorem ringWritesMeetGuard : Obligations.RingWritesMeetGuard := by
  intro w s
  refine ⟨fun ready c n place quiet => ?_, fun ready n place quiet => ?_, fun ready c n place => ?_, fun ready n place => ?_⟩
  · obtain ⟨t, ht, taken, core⟩ := acousticRingWrite_taken ready place
    rw [acousticWrite_unplaced (position_quiet quiet)] at taken core
    refine ⟨t, s.core.absorbsAcoustic c n, ht, ?_, absorbsAcoustic_iff .., fun h => ?_, fun h => ?_⟩
    · cases h : s.core.absorbsAcoustic c n <;> simpa [h] using taken
    · rw [core, if_pos h]
      exact countAbsorbed_spec ..
    · rw [core, h]
      rfl
  · obtain ⟨t, ht, taken, core⟩ := pressureRingWrite_taken ready place
    rw [pressureWrite_unplaced (pressurePosition_quiet quiet)] at taken core
    refine ⟨t, ht, ?_, ?_⟩
    · cases h : s.core.streams.pressure.frozen <;> simpa [h] using taken
    · rw [core]
      split <;> rfl
  · obtain ⟨t, ht, taken, core⟩ := hostRingWrite_taken (w := w) ready (fun _ e => by rw [place] at e; cases e)
    rw [takeHostWrite_acoustic place, hostAcousticWrite_eq] at taken core
    refine ⟨t, s.core.absorbsAcoustic c n, ht, ?_, absorbsAcoustic_iff .., fun h => ?_, fun h => ?_⟩
    · cases h : s.core.absorbsAcoustic c n <;> simpa [h] using taken
    · rw [core, h]
      rfl
    · rw [core, if_pos h]
      exact countAbsorbed_spec ..
  · obtain ⟨t, ht, taken, core⟩ := hostRingWrite_taken (w := w) ready (fun _ e => by rw [place] at e; cases e)
    rw [takeHostWrite_pressure place] at taken core
    exact ⟨t, ht, taken, core⟩

/-- Settles O19: the position test raises the fault, and the guard then decides as for any other write. -/
theorem unplacedWriteFaults : Obligations.UnplacedWriteFaults := by
  intro w s n kind expected ready fresh
  refine ⟨fun c place unplaced => ?_, fun place unplaced => ?_⟩
  · obtain ⟨t, ht, taken, core⟩ := acousticRingWrite_taken ready place
    obtain ⟨absorbed, decided, guarded, U⟩ := acousticWrite_fault fresh unplaced
    rw [decided] at taken
    rw [← core] at U
    exact ⟨t, absorbed, ht, taken, guarded, U.tracker, U.others, U.lead, U.horizon, U.writer, U.unit, U.lastFwd, U.hits,
      U.group, U.monitor, U.check, U.freeze⟩
  · obtain ⟨t, ht, taken, core⟩ := pressureRingWrite_taken ready place
    rw [pressureWrite_unplaced (pressurePosition_unplaced unplaced), raiseFault_first s.core _ fresh] at taken core
    refine ⟨t, ht, ?_, ?_⟩
    · cases h : s.core.streams.pressure.frozen <;> simpa [h] using taken
    · rw [core]
      split <;> rfl

end

section
/-! Writes placed in an acoustic stream (R5 to R7, R11, R15 to R18, R78, R101): where the stages 1 to 4 lead. -/

namespace Sys2Proof.Machine

/-! ### The largest and the smallest stream time (R15, R18) -/

theorem le_foldl_max (l : List Nat) (a : Nat) : a ≤ l.foldl max a ∧ ∀ x ∈ l, x ≤ l.foldl max a := by
  induction l generalizing a with
  | nil => exact ⟨Nat.le_refl _, fun _ h => absurd h List.not_mem_nil⟩
  | cons b l ih =>
    obtain ⟨start, rest⟩ := ih (max a b)
    refine ⟨(Nat.le_max_left a b).trans start, fun x hx => ?_⟩
    rcases List.mem_cons.1 hx with rfl | hx
    · exact (Nat.le_max_right a x).trans start
    · exact rest x hx

theorem foldl_max_mem (l : List Nat) (a : Nat) : l.foldl max a = a ∨ l.foldl max a ∈ l := by
  induction l generalizing a with
  | nil => exact .inl rfl
  | cons b l ih =>
    rcases ih (max a b) with h | h
    · rcases max_choice a b with e | e
      · exact .inl (h.trans e)
      · exact .inr (List.mem_cons.2 (.inl (h.trans e)))
    · exact .inr (List.mem_cons_of_mem b h)

theorem foldl_minTime (l : List Nat) (a : Nat) : l.foldl minTime (some a) = some (l.foldl min a) := by
  induction l generalizing a with
  | nil => rfl
  | cons b l ih => exact ih (min a b)

theorem foldl_minTime_none (l : List Nat) : l.foldl minTime none = l.min? := by
  cases l with
  | nil => rfl
  | cons b l => exact foldl_minTime l b

/-- The stream times of the channels that a test selects. -/
def Core.timesOf (k : Core) (p : Chan → Bool) : List Nat := (allChans.filter p).map fun c => (k.tracker c).time

theorem Core.mem_timesOf {k : Core} {p : Chan → Bool} {m : Nat} :
    m ∈ k.timesOf p ↔ ∃ j, p j = true ∧ m = 32 * (k.tracker j).count := by
  unfold Core.timesOf
  rw [List.mem_map]
  constructor
  · rintro ⟨j, hj, rfl⟩
    exact ⟨j, (List.mem_filter.1 hj).2, rfl⟩
  · rintro ⟨j, hj, rfl⟩
    exact ⟨j, List.mem_filter.2 ⟨List.mem_finRange j, hj⟩, rfl⟩

theorem leadTime_eq (k : Core) : k.leadTime = (k.timesOf k.enabled).foldl max 0 := by
  unfold Core.leadTime Core.timesOf
  rw [List.foldl_map, List.foldl_filter]

theorem leastTime_eq (k : Core) : k.leastTime = (k.timesOf k.participates).min? := by
  rw [← foldl_minTime_none]
  unfold Core.leastTime Core.timesOf
  rw [List.foldl_map, List.foldl_filter]

theorem le_leadTime {k : Core} {j : Chan} (h : k.enabled j = true) : 32 * (k.tracker j).count ≤ k.leadTime := by
  rw [leadTime_eq]
  exact (le_foldl_max _ 0).2 _ (Core.mem_timesOf.2 ⟨j, h, rfl⟩)

theorem leadTime_attained (k : Core) : k.leadTime = 0 ∨ ∃ j, k.enabled j = true ∧ k.leadTime = 32 * (k.tracker j).count := by
  rw [leadTime_eq]
  exact (foldl_max_mem _ 0).imp id Core.mem_timesOf.1

theorem newHorizon_kept {k : Core} (h : ∀ j, k.participates j = false) : k.newHorizon = k.streams.horizon := by
  have none : k.leastTime = none := by
    rw [leastTime_eq, List.min?_eq_none_iff]
    refine List.eq_nil_iff_forall_not_mem.2 fun m hm => ?_
    obtain ⟨j, hj, _⟩ := Core.mem_timesOf.1 hm
    rw [h j] at hj
    cases hj
  unfold Core.newHorizon
  rw [none]

theorem newHorizon_least {k : Core} {m : Nat} (attained : ∃ j, k.participates j = true ∧ m = 32 * (k.tracker j).count)
    (least : ∀ j, k.participates j = true → m ≤ 32 * (k.tracker j).count) : k.newHorizon = max k.streams.horizon m := by
  have some : k.leastTime = some m := by
    rw [leastTime_eq, List.min?_eq_some_iff]
    refine ⟨Core.mem_timesOf.2 attained, fun b hb => ?_⟩
    obtain ⟨j, hj, rfl⟩ := Core.mem_timesOf.1 hb
    exact least j hj
  unfold Core.newHorizon
  rw [some]

/-! ### Times read from positions -/

theorem Core.view_count {k k' : Core} (h : k'.view = k.view) (c : Chan) : (k'.tracker c).count = (k.tracker c).count :=
  congrArg (fun p : Pos => p.2.2.2) (Core.view_pos h c)

theorem Core.view_enabled {k k' : Core} (h : k'.view = k.view) (c : Chan) : k'.enabled c = k.enabled c := by
  unfold Core.enabled
  rw [Core.view_settingsOf h]

theorem Core.view_leadTime {k k' : Core} (h : k'.view = k.view) : k'.leadTime = k.leadTime := by
  unfold Core.leadTime Tracker.time
  simp only [Core.view_enabled h, Core.view_count h]

/-! ### Stage 4 (R15 to R18) -/

/-- What stage 4 makes of the state with the new count. -/
structure Core.Followed (k k' : Core) : Prop where
  view    : k'.view = k.view
  lead    : k'.streams.lead = k.leadTime
  stalled : ∀ j, (k'.tracker j).stalled =
    if k.enabled j then
      if (k.tracker j).stalled then decide (32 * (k.global.lagLimit / 2) < k.leadTime - 32 * (k.tracker j).count)
      else decide (32 * k.global.lagLimit < k.leadTime - 32 * (k.tracker j).count)
    else (k.tracker j).stalled
  raised  : k.streams.horizon ≤ k'.streams.horizon
  kept    : (∀ j, k'.participates j = false) → k'.streams.horizon = k.streams.horizon
  least   : ∀ m, (∃ j, k'.participates j = true ∧ m = 32 * (k'.tracker j).count) →
    (∀ j, k'.participates j = true → m ≤ 32 * (k'.tracker j).count) → k'.streams.horizon = max k.streams.horizon m
  faults  : ∀ j, min (k.tracker j).faults 65535 ≤ (k'.tracker j).faults
  pending : ∃ x, k'.unit.pending = k.unit.pending ||| x

theorem stallTests_behind (k : Core) (j : Chan) : (k.stallTests.tracker j).stalled =
    if k.enabled j then
      if (k.tracker j).stalled then decide (32 * (k.global.lagLimit / 2) < k.streams.lead - 32 * (k.tracker j).count)
      else decide (32 * k.global.lagLimit < k.streams.lead - 32 * (k.tracker j).count)
    else (k.tracker j).stalled := by
  rw [stallTests_stalled]
  unfold Tracker.time
  split
  · split
    · rw [← decide_not]
      exact decide_eq_decide.2 (by omega)
    · exact decide_eq_decide.2 (by omega)
  · rfl

theorem recomputeHorizon_participates (k : Core) (found : Bool) (j : Chan) :
    (k.recomputeHorizon found).participates j = k.participates j := by
  have g := recomputeHorizon_grows k found
  unfold Core.participates
  rw [Core.view_enabled (g.view.trans (k.setHorizon_view _)), g.stalled]
  rfl

theorem followed_of_count (k : Core) (found : Bool) : k.Followed (k.recomputeLead.stallTests.recomputeHorizon found) := by
  have T := tested_stallTests k.recomputeLead
  have stalled := stallTests_behind k.recomputeLead
  generalize k.recomputeLead.stallTests = b at T stalled ⊢
  have G := recomputeHorizon_grows b found
  have same := recomputeHorizon_participates b found
  have raised := le_recomputeHorizon b found
  generalize b.recomputeHorizon found = d at G same raised ⊢
  have horizon : d.streams.horizon = b.newHorizon := G.horizon
  have before : b.streams.horizon = k.streams.horizon := T.horizon
  refine ⟨(G.view.trans (b.setHorizon_view _)).trans (T.view.trans k.recomputeLead_view), G.lead.trans T.lead, fun j => ?_, ?_,
    fun none => ?_, fun m attained least => ?_, fun j => ?_, ?_⟩
  · exact (G.stalled j).trans (stalled j)
  · rw [← before]
    exact raised
  · rw [horizon, newHorizon_kept fun j => (same j).symm.trans (none j), before]
  · simp only [same, G.count] at attained least
    rw [horizon, newHorizon_least attained least, before]
  · rw [G.faults]
    exact T.faults j
  · obtain ⟨x, hx⟩ := T.pending
    obtain ⟨y, hy⟩ := G.pending
    exact ⟨x ||| y, by rw [hy, ← BitVec.or_assoc]; exact congrArg (· ||| y) hx⟩

/-! ### Stages 1 to 3 (R5 to R7, R78, R101) -/

/-- The guard's decision on a placed write, and the state that it hands to stage 4: `k3` has what the analysis has grown. -/
structure Core.Decided (k k1 : Core) (c : Chan) (n : Nat) (absorbed : Bool) (k3 : Core) : Prop where
  grown     : k1.Grows k3
  guarded   : k.Protected c n → absorbed = true
  forwarded : k.check.state = .idle → (k.freezeOf c).state ≠ .counting → absorbed = true → k.Protected c n

theorem freezesAtWrite_of_notCounting {k : Core} {c : Chan} (h : (k.freezeOf c).state ≠ .counting) (start : Option Nat) :
    k.freezesAtWrite c start = false := by
  unfold Core.freezesAtWrite
  split
  · simp [h]
  · rfl

/-- With no check running, the analysis of a placed block leaves the freeze states as they are. -/
theorem Core.Placed.freezeOf {k k1 : Core} {c : Chan} {n gap : Nat} (h : k.Placed k1 c n gap) (idle : k.check.state = .idle)
    (i start : Nat) (b : Block) : (k1.takeBlock c i start b).freezeOf c = k.freezeOf c := by
  have check : k1.check = k.check := read_of_view h.beside Core.check
  have calm := calm_takeBlock k1 c i start b (by rw [check]; exact idle)
  exact (read_of_view calm fun k => k.freezeOf c).trans (read_of_view h.beside fun k => k.freezeOf c)

/-- The state after the guard's decision: a forwarded write has become its ring's last forwarded index (R101). -/
def Core.guarded (k : Core) (c : Chan) (n : Nat) (absorbed : Bool) : Core := if absorbed then k else k.setLastForwarded c n

theorem Core.guarded_tracker (k : Core) (c : Chan) (n : Nat) (absorbed : Bool) (j : Chan) :
    (k.guarded c n absorbed).tracker j = k.tracker j := by
  cases absorbed <;> rfl

theorem Core.guarded_lastForwarded (k : Core) (c : Chan) (n : Nat) (absorbed : Bool) (j : Chan) :
    (k.guarded c n absorbed).lastForwarded j = if absorbed then k.lastForwarded j else if c = j then some n else k.lastForwarded j := by
  cases absorbed
  · exact look_put ..
  · rfl

/-- The guard's decision, and the state it leaves: what the freeze logic and the counts have grown, with the last forwarded
index set when the write is forwarded. -/
theorem guardStage_decides (k : Core) (c : Chan) (n : Nat) (absorbs : Bool) (held : Option (Fin 64)) (start : Option Nat) :
    ∃ k3 absorbed, k.Grows k3 ∧ absorbed = (absorbs || k.freezesAtWrite c start) ∧
      k.guardStage c n absorbs held start = (k3.guarded c n absorbed, absorbed) := by
  obtain ⟨f, hf⟩ : ∃ f, f = if k.freezesAtWrite c start then (k.freezeRing c .atWrite).allFrozenTest else k := ⟨_, rfl⟩
  have frozen : k.Grows f := by
    rw [hf]
    split
    · exact (grows_freezeRing k c .atWrite).trans (grows_allFrozenTest _)
    · exact .refl k
  unfold Core.guardStage
  dsimp only
  rw [← hf]
  cases absorbs || k.freezesAtWrite c start with
  | true => exact ⟨f.countAbsorbed c held, true, frozen.trans (grows_countAbsorbed f c held), rfl, rfl⟩
  | false => exact ⟨f, false, frozen, rfl, rfl⟩

theorem acousticWrite_stages {k k1 k4 : Core} {c : Chan} {n start : Nat} {w : BlockWrite} {absorbed : Bool}
    (placed : k.position c n (w.mask == fullMask) = (k1, some start))
    (guarded : (k1.takeBlock c n start w.data).guardStage c n (k.absorbsAcoustic c n) (k.holdAt c n) (some start) =
      (k4, absorbed)) :
    k.acousticWrite c n w = (k4.recordTime c start (foundSource k1.check (k1.takeBlock c n start w.data).check), absorbed) := by
  unfold Core.acousticWrite
  rw [placed]
  dsimp only [Core.detectStage]
  rw [guarded]
  rfl

theorem acousticWrite_placed {k : Core} {c : Chan} {n gap : Nat} {w : BlockWrite} (full : w.mask = BitVec.allOnes 64)
    (h : k.PlacedAt c n gap) :
    ∃ k1 k3 absorbed found, k.Placed k1 c n gap ∧ k.Decided k1 c n absorbed k3 ∧
      k.acousticWrite c n w =
        ((k3.guarded c n absorbed).recordTime c (32 * ((k.tracker c).count + gap)) found, absorbed) := by
  obtain ⟨k1, placed, P⟩ := position_spec k c n gap h
  have mask : (w.mask == fullMask) = true := beq_iff_eq.2 full
  rw [← mask] at placed
  obtain ⟨k3, absorbed, grown, decided, guarded⟩ := guardStage_decides
    (k1.takeBlock c n (32 * ((k.tracker c).count + gap)) w.data) c n (k.absorbsAcoustic c n) (k.holdAt c n)
    (some (32 * ((k.tracker c).count + gap)))
  refine ⟨k1, k3, absorbed, _, P, ⟨(grows_takeBlock ..).trans grown, fun g => ?_, fun idle notCounting g => ?_⟩,
    acousticWrite_stages placed guarded⟩
  · rw [decided, (absorbsAcoustic_iff k c n).2 g, Bool.true_or]
  · rw [decided, freezesAtWrite_of_notCounting (by rw [P.freezeOf idle]; exact notCounting), Bool.or_false] at g
    exact (absorbsAcoustic_iff k c n).1 g

/-! ### All stages -/

/-- The state that stage 4 starts from: the guard has decided and the placed block is counted. -/
def Core.counted (k k3 : Core) (c : Chan) (n gap : Nat) (absorbed : Bool) : Core :=
  (k3.guarded c n absorbed).setCount c ((k.tracker c).count + gap + 1)

theorem counted_tracker (k k3 : Core) (c : Chan) (n gap : Nat) (absorbed : Bool) (j : Chan) :
    (k.counted k3 c n gap absorbed).tracker j =
      if c = j then { k3.tracker c with count := (k.tracker c).count + gap + 1 } else k3.tracker j := by
  unfold Core.counted Core.setCount
  rw [Core.tracker_setTracker, Core.guarded_tracker, Core.guarded_tracker]

theorem counted_lastForwarded (k k3 : Core) (c : Chan) (n gap : Nat) (absorbed : Bool) (j : Chan) :
    (k.counted k3 c n gap absorbed).lastForwarded j =
      if absorbed then k3.lastForwarded j else if c = j then some n else k3.lastForwarded j :=
  Core.guarded_lastForwarded ..

/-- What lies beside the trackers and the guard is as the analysis has left it. -/
theorem counted_beside (k k3 : Core) (c : Chan) (n gap : Nat) (absorbed : Bool) :
    (k.counted k3 c n gap absorbed).streams.pressure = k3.streams.pressure ∧
      (k.counted k3 c n gap absorbed).streams.horizon = k3.streams.horizon ∧
      (k.counted k3 c n gap absorbed).unit = k3.unit ∧ (k.counted k3 c n gap absorbed).writer = k3.writer := by
  cases absorbed <;> exact ⟨rfl, rfl, rfl, rfl⟩

theorem acousticWrite_followed {k : Core} {c : Chan} {n gap : Nat} {w : BlockWrite} (full : w.mask = BitVec.allOnes 64)
    (h : k.PlacedAt c n gap) :
    ∃ k1 k3 absorbed, k.Placed k1 c n gap ∧ k.Decided k1 c n absorbed k3 ∧
      (k.counted k3 c n gap absorbed).Followed (k.acousticWrite c n w).1 ∧ (k.acousticWrite c n w).2 = absorbed := by
  obtain ⟨k1, k3, absorbed, found, P, D, written⟩ := acousticWrite_placed full h
  have count : 32 * ((k.tracker c).count + gap) / 32 = (k.tracker c).count + gap := Nat.mul_div_cancel_left _ (by decide)
  have F := followed_of_count (k.counted k3 c n gap absorbed) found
  refine ⟨k1, k3, absorbed, P, D, ?_, by rw [written]⟩
  rw [written]
  unfold Core.recordTime
  rw [count]
  exact F

/-- Positions after a placed write: the channel's own moves on by the gap and the block, the others stay. -/
theorem placed_pos {k k1 k3 k' : Core} {c : Chan} {n gap : Nat} {absorbed : Bool} (P : k.Placed k1 c n gap)
    (D : k.Decided k1 c n absorbed k3) (F : (k.counted k3 c n gap absorbed).Followed k') (j : Chan) :
    (k'.tracker j).pos = if j = c then
      (.tracking, if (k.tracker c).state = .waiting then some n else (k.tracker c).origin, (n + 1) % k.ringSize c,
        (k.tracker c).count + gap + 1)
    else (k.tracker j).pos := by
  rw [Core.view_pos F.view, counted_tracker]
  by_cases h : j = c
  · subst h
    have same := Core.view_pos D.grown.view j
    rw [P.tracker] at same
    rw [if_pos rfl, if_pos rfl]
    simp only [Tracker.pos, Prod.mk.injEq] at same ⊢
    obtain ⟨state, origin, expected, _⟩ := same
    exact ⟨state, origin, expected, trivial⟩
  · rw [if_neg h, if_neg (Ne.symm h), Core.view_pos D.grown.view, P.others j h]

theorem Core.view_lastForwarded {k k' : Core} (h : k'.view = k.view) (j : Chan) : k'.lastForwarded j = k.lastForwarded j :=
  congrArg (fun v : View => look v.lastFwd j) h

/-- The last forwarded indices after a placed write (R101). -/
theorem placed_lastForwarded {k k1 k3 k' : Core} {c : Chan} {n gap : Nat} {absorbed : Bool} (P : k.Placed k1 c n gap)
    (D : k.Decided k1 c n absorbed k3) (F : (k.counted k3 c n gap absorbed).Followed k') (j : Chan) :
    k'.lastForwarded j = if absorbed then k.lastForwarded j else if c = j then some n else k.lastForwarded j := by
  have before : k3.lastForwarded j = k.lastForwarded j :=
    (Core.view_lastForwarded D.grown.view j).trans (read_of_view P.beside fun k => k.lastForwarded j)
  rw [Core.view_lastForwarded F.view, counted_lastForwarded, before]

/-- A skip is counted as a fault of its channel and raises FAULT (R7). -/
theorem placed_fault {k k1 k3 k' : Core} {c : Chan} {n gap : Nat} {absorbed : Bool} (P : k.Placed k1 c n gap)
    (D : k.Decided k1 c n absorbed k3) (F : (k.counted k3 c n gap absorbed).Followed k') (skip : 0 < gap) :
    min ((k.tracker c).faults + 1) 65535 ≤ (k'.tracker c).faults ∧ k'.unit.pending &&& 64 = 64 := by
  obtain ⟨_, _, unit, _⟩ := counted_beside k k3 c n gap absorbed
  constructor
  · have counted := F.faults c
    have before : (k3.tracker c).faults = min ((k.tracker c).faults + 1) 65535 := by
      rw [D.grown.faults, P.tracker, if_pos skip]
    rw [counted_tracker, if_pos rfl] at counted
    dsimp only at counted
    omega
  · obtain ⟨x, hx⟩ := F.pending
    rw [hx, unit]
    exact or64 _ _ (D.grown.bit 64 (P.fault skip))

/-- What a placed write leaves of the pressure stream, the command unit and the record ring. -/
theorem placed_beside {k k1 k3 k' : Core} {c : Chan} {n gap : Nat} {absorbed : Bool} (P : k.Placed k1 c n gap)
    (D : k.Decided k1 c n absorbed k3) (F : (k.counted k3 c n gap absorbed).Followed k') :
    k'.streams.pressure.pos = k.streams.pressure.pos ∧ k'.unit.settings = k.unit.settings ∧ k'.writer.ring = k.writer.ring := by
  obtain ⟨pressure, _, unit, writer⟩ := counted_beside k k3 c n gap absorbed
  refine ⟨?_, ?_, ?_⟩
  · calc k'.streams.pressure.pos
      _ = (k.counted k3 c n gap absorbed).streams.pressure.pos := congrArg View.ppos F.view
      _ = k3.streams.pressure.pos := by rw [pressure]
      _ = k1.streams.pressure.pos := congrArg View.ppos D.grown.view
      _ = k.streams.pressure.pos := by rw [P.pressure]
  · rw [Core.view_settings F.view, unit, Core.view_settings D.grown.view]
    exact read_of_view P.beside fun k => k.unit.settings
  · calc k'.writer.ring
      _ = (k.counted k3 c n gap absorbed).writer.ring := congrArg View.ring F.view
      _ = k3.writer.ring := by rw [writer]
      _ = k1.writer.ring := congrArg View.ring D.grown.view
      _ = k.writer.ring := read_of_view P.beside fun k => k.writer.ring

/-- The stalled flags and the horizon as stage 4 finds them are those from before the write. -/
theorem counted_times {k k1 k3 : Core} {c : Chan} {n gap : Nat} {absorbed : Bool} (P : k.Placed k1 c n gap)
    (D : k.Decided k1 c n absorbed k3) :
    (k.counted k3 c n gap absorbed).streams.horizon = k.streams.horizon ∧
      ∀ j, ((k.counted k3 c n gap absorbed).tracker j).stalled = (k.tracker j).stalled := by
  obtain ⟨_, placed⟩ := P.times
  obtain ⟨_, horizon, _, _⟩ := counted_beside k k3 c n gap absorbed
  refine ⟨horizon.trans (D.grown.horizon.trans placed), fun j => ?_⟩
  rw [counted_tracker]
  by_cases h : c = j
  · subst h
    rw [if_pos rfl]
    exact (D.grown.stalled c).trans (by rw [P.tracker])
  · rw [if_neg h, D.grown.stalled, P.others j (Ne.symm h)]

/-- An enabled channel is stalled by its distance from the lead time, measured against the settings in force (R16, R17). -/
theorem placed_stalled {k k1 k3 k' : Core} {c : Chan} {n gap : Nat} {absorbed : Bool} (P : k.Placed k1 c n gap)
    (D : k.Decided k1 c n absorbed k3) (F : (k.counted k3 c n gap absorbed).Followed k') {j : Chan} (h : k.enabled j = true) :
    (k'.tracker j).stalled =
      if (k.tracker j).stalled then decide (32 * (k.global.lagLimit / 2) < k'.streams.lead - 32 * (k'.tracker j).count)
      else decide (32 * k.global.lagLimit < k'.streams.lead - 32 * (k'.tracker j).count) := by
  obtain ⟨_, settings, _⟩ := placed_beside P D F
  have same : (k.counted k3 c n gap absorbed).unit.settings = k.unit.settings := (Core.view_settings F.view).symm.trans settings
  have enabled : (k.counted k3 c n gap absorbed).enabled j = true := by
    unfold Core.enabled at h ⊢
    rw [Core.settingsOf_congr same]
    exact h
  have global : (k.counted k3 c n gap absorbed).global = k.global := by
    unfold Core.global
    rw [same]
  rw [F.stalled, if_pos enabled, (counted_times P D).2, global, F.lead, Core.view_count F.view]

end Sys2Proof.Machine

open Sys2Proof Sys2Proof.Machine

/-- Settles O21: stage 1 places the write, stage 3 decides it, and the stages between and after keep what they are to keep. -/
theorem placedWriteAdvances : Obligations.PlacedWriteAdvances := by
  intro w s c n gap ready place full placedAt
  obtain ⟨t, ht, taken, core⟩ := acousticRingWrite_taken ready place
  obtain ⟨k1, k3, absorbed, P, D, F, decided⟩ := acousticWrite_followed full placedAt
  rw [decided] at taken
  rw [← core] at F
  have own := placed_pos P D F c
  rw [if_pos rfl] at own
  simp only [Tracker.pos, Prod.mk.injEq] at own
  obtain ⟨state, origin, expected, count⟩ := own
  obtain ⟨pressure, settings, ring⟩ := placed_beside P D F
  refine ⟨t, absorbed, ht, taken, D.guarded, D.forwarded, state, count, expected, origin, fun skip room => ?_,
    fun skip => (placed_fault P D F skip).right, ?_, fun j hj => ?_, congrArg (fun p : Pos => p.2.2.2) pressure, settings,
    congrArg RingView.produce ring, congrArg RingView.drain ring, congrArg RingView.occupancy ring⟩
  · have raised := (placed_fault P D F skip).1
    omega
  · rw [placed_lastForwarded P D F, if_pos rfl]
  · have others := placed_pos P D F j
    rw [if_neg hj] at others
    simp only [Tracker.pos, Prod.mk.injEq] at others
    obtain ⟨state, origin, expected, count⟩ := others
    refine ⟨state, origin, expected, count, ?_⟩
    rw [placed_lastForwarded P D F, if_neg (Ne.symm hj), ite_self]

/-- Settles O22: stage 4 takes lead time, stalls and horizon from the counts that the write leaves. -/
theorem streamTimesFollow : Obligations.StreamTimesFollow := by
  intro w s t c n gap ready place full placedAt ht
  obtain ⟨t', ht', _, core⟩ := acousticRingWrite_taken ready place
  obtain rfl : t = t' := by
    rw [ht] at ht'
    exact Host.Outcome.next.inj ht'
  obtain ⟨k1, k3, absorbed, P, D, F, _⟩ := acousticWrite_followed full placedAt
  rw [← core] at F
  obtain ⟨_, settings, _⟩ := placed_beside P D F
  have enabled : ∀ j, t.core.enabled j = s.core.enabled j := fun j => by
    unfold Core.enabled
    rw [Core.settingsOf_congr settings]
  have lead : t.core.streams.lead = t.core.leadTime := F.lead.trans (Core.view_leadTime F.view).symm
  have horizon := (counted_times P D).1
  refine ⟨fun j hj => ?_, ?_, fun j hj => placed_stalled P D F hj, ?_, fun none => ?_, fun m attained least => ?_⟩
  · rw [lead]
    exact le_leadTime ((enabled j).trans hj)
  · rw [lead]
    simpa only [enabled] using leadTime_attained t.core
  · exact horizon ▸ F.raised
  · exact (F.kept none).trans horizon
  · rw [F.least m attained least, horizon]

end

section
/-! An APPLY that is activated (R14, R22, R53, R87, R149, R171, R181): the settings that stand, and what an activation in
STOPPED makes of streams, holds and record ring. -/

namespace Sys2Proof.Machine

/-! ### Changed acoustic rings (R22, R87) -/

/-- The effects of the changed layout entries of the acoustic rings. -/
def Core.relayRings (k old : Core) (st : Settings) : Core :=
  forChans (fun k c => if old.entryChanged st (ringEntryIndex c) then k.relayChannel c else k) k

/-- The holds of a channel, as a table of all entries. -/
def Core.holdsOf (k : Core) (c : Chan) : Fin 64 → Option Hold := fun h => (k.hold h).filter fun x => x.chan == c

/-- The blocks without trackers of channels, detectors and guard, which the change of an acoustic ring reaches. -/
def Core.besideRelay (k : Core) : Core :=
  { k with streams := { k.streams with chan := Streams.reset.chan }, hits := Hits.reset, guard := Guard.reset, choices := 0 }

theorem relayChannel_besideRelay (k : Core) (c : Chan) : (k.relayChannel c).besideRelay = k.besideRelay := by
  obtain ⟨streams, group, monitor, check, writer, unit, _⟩ :=
    releaseList_keeps ((k.clearPosition c).channelHolds c) (k.clearPosition c)
  unfold Core.relayChannel Core.besideRelay
  dsimp only
  rw [streams, group, monitor, check, writer, unit]
  rfl

theorem relayChannel_tracker (k : Core) (c j : Chan) : (k.relayChannel c).tracker j =
    if c = j then { k.tracker j with origin := none, expected := 0, count := 0 } else k.tracker j := by
  have streams := (releaseList_keeps ((k.clearPosition c).channelHolds c) (k.clearPosition c)).1
  have cleared : (k.relayChannel c).tracker j = (k.clearPosition c).tracker j := congrArg (fun s : Streams => look s.chan j) streams
  rw [cleared]
  unfold Core.clearPosition
  rw [Core.tracker_setTracker]
  split
  · subst_vars; rfl
  · rfl

theorem mem_channelHolds {k : Core} {c : Chan} {h : Fin 64} : h ∈ k.channelHolds c ↔ ∃ x, k.hold h = some x ∧ x.chan = c := by
  unfold Core.channelHolds Core.holdsWhere
  rw [List.mem_filter]
  cases k.hold h with
  | none => simp
  | some x => simp [allHolds]

/-- The release of a channel's holds leaves every other channel's. -/
theorem relayChannel_hold (k : Core) (c : Chan) (h : Fin 64) :
    (k.relayChannel c).hold h = if ∃ x, k.hold h = some x ∧ x.chan = c then none else k.hold h := by
  unfold Core.relayChannel
  dsimp only
  rw [releaseList_hold]
  exact if_congr mem_channelHolds rfl rfl

theorem relayChannel_holdsOf (k : Core) (c j : Chan) :
    (k.relayChannel c).holdsOf j = if c = j then fun _ => none else k.holdsOf j := by
  funext h
  unfold Core.holdsOf
  rw [relayChannel_hold]
  cases e : k.hold h with
  | none => by_cases same : c = j <;> simp [e, same]
  | some x =>
    by_cases own : x.chan = c
    · by_cases same : c = j <;> simp [e, own, same, Option.filter]
    · by_cases same : c = j
      · subst same
        simp [own, Option.filter]
      · simp [e, own, same]

theorem relayRings_besideRelay (k old : Core) (st : Settings) : (k.relayRings old st).besideRelay = k.besideRelay := by
  refine forChans_keeps Core.besideRelay (fun k c => ?_) k
  split
  · exact relayChannel_besideRelay k c
  · rfl

theorem relayRings_tracker (k old : Core) (st : Settings) (j : Chan) : (k.relayRings old st).tracker j =
    if old.entryChanged st (ringEntryIndex j) then { k.tracker j with origin := none, expected := 0, count := 0 }
    else k.tracker j := by
  refine forChans_at (get := Core.tracker) (R := fun _ _ => True)
    (g := fun k j => if old.entryChanged st (ringEntryIndex j) then { k.tracker j with origin := none, expected := 0, count := 0 }
      else k.tracker j) (fun _ => trivial) (fun _ _ _ _ => trivial) (fun k c j hj => ?_) (fun k k' j _ he => ?_) k j
  · split
    · rw [relayChannel_tracker, if_neg (Ne.symm hj)]
    · rfl
  · split
    · rw [relayChannel_tracker, if_pos rfl, he]
    · exact he

theorem relayRings_holdsOf (k old : Core) (st : Settings) (j : Chan) : (k.relayRings old st).holdsOf j =
    if old.entryChanged st (ringEntryIndex j) then fun _ => none else k.holdsOf j := by
  refine forChans_at (get := Core.holdsOf) (R := fun _ _ => True)
    (g := fun k j => if old.entryChanged st (ringEntryIndex j) then fun _ => none else k.holdsOf j) (fun _ => trivial)
    (fun _ _ _ _ => trivial) (fun k c j hj => ?_) (fun k k' j _ he => ?_) k j
  · split
    · rw [relayChannel_holdsOf, if_neg (Ne.symm hj)]
    · rfl
  · split
    · rw [relayChannel_holdsOf, if_pos rfl]
    · exact he

/-! ### Changed pressure and record rings (R22, R149) -/

/-- The effects of the changed layout entries but the record ring's. -/
def Core.relayStreams (k old : Core) (st : Settings) : Core :=
  if old.entryChanged st 32 then (k.relayRings old st).clearPressurePosition else k.relayRings old st

theorem relay_eq (k old : Core) (st : Settings) : k.relay old st =
    if old.entryChanged st 33 then (k.relayStreams old st).relayRecordRing else k.relayStreams old st := rfl

/-- Nothing but the pressure tracker differs from what the acoustic rings' changes leave. -/
theorem relayStreams_keeps {α : Type} (F : Core → α) (h : ∀ k : Core, F k.clearPressurePosition = F k) (k old : Core) (st : Settings) :
    F (k.relayStreams old st) = F (k.relayRings old st) := by
  unfold Core.relayStreams
  split
  · exact h _
  · rfl

theorem relay_besideWriter (k old : Core) (st : Settings) :
    (k.relay old st).besideWriter = (k.relayStreams old st).besideWriter := by
  rw [relay_eq]
  split
  · exact Core.relayRecordRing_besideWriter _
  · rfl

theorem relayRecordRing_unitView (k : Core) : k.relayRecordRing.unit.view = k.unit.view := by
  unfold Core.relayRecordRing
  have exit := fun x : Core => congrArg View.unit x.exitTest_view
  refine (exit _).trans ?_
  unfold Core.abandonPlacement
  split <;> rfl

theorem relayRecordRing_ring (k : Core) : k.relayRecordRing.writer.ring =
    { k.writer.ring with produce := 0, drain := 0, occupancy := 0, placement := none } := by
  unfold Core.relayRecordRing
  have exit := fun x : Core => congrArg View.ring x.exitTest_view
  refine (exit _).trans ?_
  unfold Core.abandonPlacement
  split
  · rename_i h
    simp [Writer.ring, Core.setWriter, Core.view, h]
  · rfl

theorem relay_unitView (k old : Core) (st : Settings) : (k.relay old st).unit.view = k.unit.view := by
  have streams : (k.relayStreams old st).unit.view = k.unit.view :=
    (relayStreams_keeps (fun k => k.unit.view) (fun _ => rfl) k old st).trans
      (read_of_view (relayRings_besideRelay k old st) fun k => k.unit.view)
  rw [relay_eq]
  split
  · exact (relayRecordRing_unitView _).trans streams
  · exact streams

theorem relay_ring (k old : Core) (st : Settings) : (k.relay old st).writer.ring =
    if old.entryChanged st 33 then { k.writer.ring with produce := 0, drain := 0, occupancy := 0, placement := none }
    else k.writer.ring := by
  have streams : (k.relayStreams old st).writer.ring = k.writer.ring :=
    (relayStreams_keeps (fun k => k.writer.ring) (fun _ => rfl) k old st).trans
      (read_of_view (relayRings_besideRelay k old st) fun k => k.writer.ring)
  rw [relay_eq]
  split
  · rw [relayRecordRing_ring, streams]
  · exact streams

/-! ### The settings that stand, in any run state -/

theorem followPolicy_view (k old : Core) : (k.followPolicy old).view = k.view := by
  unfold Core.followPolicy
  split
  · exact k.endStall_view
  · rfl
  · rfl

theorem changeEnabled_view (k old : Core) : (k.changeEnabled old).view = k.view := by
  unfold Core.changeEnabled
  dsimp only
  refine (forChans_keeps Core.view (fun k c => ?_) _).trans (forChans_keeps Core.view (fun k c => ?_) k)
  · split
    · unfold Core.enableChannel
      split
      · rfl
      · split
        · exact ((grows_enterCheck k c).trans (grows_setPrev _ c 0)).view
        · exact ((grows_enterArmed k c none).trans (grows_setPrev _ c 0)).view
    · rfl
  · split
    · unfold Core.disableChannel Core.clearStalled
      split <;> simp
    · rfl

theorem followSource_view (k : Core) : k.followSource.view = k.view := by
  unfold Core.followSource
  split
  · exact k.finishCheck_view _
  · rfl

theorem followParticipation_view (k old : Core) : (k.followParticipation old).view = k.view := by
  unfold Core.followParticipation
  (repeat' split) <;> simp

/-- The state of an activation in which the changed entries have been followed, the channels not yet. -/
def Core.relaid (k : Core) (st : Settings) (paths : Option (Vector (Vector (BitVec 12) 32) 32)) : Core :=
  ((k.installSettings st paths).relay k st).followPolicy k

theorem activate_view (k : Core) (st : Settings) (paths : Option (Vector (Vector (BitVec 12) 32) 32)) :
    (k.activate st paths).view = (k.relaid st paths).view :=
  (followParticipation_view ..).trans ((followSource_view _).trans (changeEnabled_view ..))

theorem activate_unitView (k : Core) (st : Settings) (paths : Option (Vector (Vector (BitVec 12) 32) 32)) :
    (k.activate st paths).unit.view = { k.unit.view with settings := some st, applied := true } :=
  (congrArg View.unit (activate_view k st paths)).trans
    ((congrArg View.unit (followPolicy_view _ k)).trans (relay_unitView _ k st))

theorem activate_ring (k : Core) (st : Settings) (paths : Option (Vector (Vector (BitVec 12) 32) 32)) :
    (k.activate st paths).writer.ring =
      if k.entryChanged st 33 then { k.writer.ring with produce := 0, drain := 0, occupancy := 0, placement := none }
      else k.writer.ring :=
  (congrArg View.ring (activate_view k st paths)).trans
    ((congrArg View.ring (followPolicy_view _ k)).trans (relay_ring _ k st))

/-! ### An activation in STOPPED -/

/-- The blocks without what an activation in STOPPED may change of the channels it disables: stalled flags and the dirty mark. -/
def Core.besideStalls (k : Core) : Core :=
  { k with streams := { k.streams with chan := Streams.reset.chan }, unit := { k.unit with dirty := false } }

/-- Nothing but stalled flags and the dirty mark has changed (R14). -/
structure Core.Rests (k k' : Core) : Prop where
  trackers : ∀ j, ∃ b, k'.tracker j = { k.tracker j with stalled := b }
  beside   : k'.besideStalls = k.besideStalls

theorem Core.Rests.refl (k : Core) : k.Rests k := ⟨fun _ => ⟨_, rfl⟩, rfl⟩

theorem Core.Rests.trans {a b c : Core} (h : a.Rests b) (g : b.Rests c) : a.Rests c where
  trackers j := by
    obtain ⟨_, hb⟩ := h.trackers j
    obtain ⟨x, hc⟩ := g.trackers j
    exact ⟨x, by rw [hc, hb]⟩
  beside := g.beside.trans h.beside

theorem Core.Rests.quiet {k k' : Core} (h : k.Rests k') (q : k.Quiet) : k'.Quiet where
  trackers j := by
    obtain ⟨_, e⟩ := h.trackers j
    rw [e]
    exact q.trackers j
  pressure := (read_of_view h.beside fun k => k.streams.pressure.state).trans q.pressure
  detectors j := (read_of_view h.beside fun k => (k.detector j).state).trans (q.detectors j)
  check := (read_of_view h.beside fun k => k.check.state).trans q.check
  freezes j := (read_of_view h.beside fun k => (k.freezeOf j).state).trans (q.freezes j)
  pfreeze := (read_of_view h.beside fun k => k.guard.pFreeze.state).trans q.pfreeze
  post := (read_of_view h.beside fun k => k.monitor.post).trans q.post

theorem put_look {α : Type} {n : Nat} (v : Vector α n) (i : Fin n) : put v i (look v i) = v := by
  simp [put, look]

theorem setDetector_self (k : Core) (c : Chan) : k.setDetector c (k.detector c) = k := by
  unfold Core.setDetector Core.detector
  rw [put_look]
  rfl

theorem withdraw_idle {k : Core} {c : Chan} (h : (k.detector c).state = .idle) : k.withdraw c = k := by
  have closed : k.closeIfOpen c .withdrawn = k := by
    unfold Core.closeIfOpen
    rw [h]
  have same : { k.detector c with state := .idle } = k.detector c := by rw [← h]
  unfold Core.withdraw Core.setDetectorState
  rw [closed, same, setDetector_self]

theorem clearStalled_rests (k : Core) (c : Chan) : k.Rests (k.clearStalled c) := by
  unfold Core.clearStalled
  split
  · refine ⟨fun j => ?_, rfl⟩
    have set : ((k.setStalled c false).markDirty).tracker j = if c = j then { k.tracker c with stalled := false } else k.tracker j :=
      Core.tracker_setTracker ..
    rw [set]
    split
    · subst_vars; exact ⟨_, rfl⟩
    · exact ⟨_, rfl⟩
  · exact .refl k

/-- Where nothing runs, a channel that is disabled loses its stalled flag alone (R14). -/
theorem disableChannel_quiet {k : Core} (q : k.Quiet) (c : Chan) : k.disableChannel c = k.clearStalled c := by
  have rests := (clearStalled_rests k c).quiet q
  have noCheck : (k.clearStalled c).markDisabled c = k.clearStalled c := by
    unfold Core.markDisabled
    rw [if_neg]
    rw [checkRuns_iff]
    exact not_not.2 rests.check
  have noFreeze : (k.clearStalled c).freezeAtOnce c .disabled = k.clearStalled c := by
    unfold Core.freezeAtOnce
    rw [if_neg]
    rw [rests.freezes c]
    decide
  unfold Core.disableChannel
  rw [withdraw_idle (q.detectors c), noCheck, noFreeze]

theorem changeEnabled_rests (k old : Core) (q : k.Quiet) (run : k.unit.run = .stopped) : k.Rests (k.changeEnabled old) := by
  have disabled : k.Rests (forChans (fun k c => if old.enabled c && !k.enabled c then k.disableChannel c else k) k) := by
    refine forChans_rel (R := fun k k' => k.Quiet → k.Rests k') (fun k _ => .refl k) (fun k k' c h q => ?_) k q
    split
    · rw [disableChannel_quiet ((h q).quiet q)]
      exact (h q).trans (clearStalled_rests k' c)
    · exact h q
  unfold Core.changeEnabled
  dsimp only
  generalize forChans (fun k c => if old.enabled c && !k.enabled c then k.disableChannel c else k) k = x at disabled ⊢
  have stopped : x.unit.run = .stopped := (read_of_view disabled.beside fun k => k.unit.run).trans run
  have none : forChans (fun k c => if !old.enabled c && k.enabled c then k.enableChannel c else k) x = x := by
    refine forChans_rel (R := fun k k' => k.unit.run = .stopped → k' = k) (fun _ _ => rfl) (fun k k' c h run => ?_) x stopped
    rw [h run]
    unfold Core.enableChannel
    rw [if_pos run, ite_self]
  rw [none]
  exact disabled

theorem activate_rests {k : Core} (st : Settings) (paths : Option (Vector (Vector (BitVec 12) 32) 32))
    (q : (k.relaid st paths).Quiet) (run : (k.relaid st paths).unit.run = .stopped) :
    (k.relaid st paths).Rests (k.activate st paths) := by
  have enabled := changeEnabled_rests (k.relaid st paths) k q run
  have source : ((k.relaid st paths).changeEnabled k).followSource = (k.relaid st paths).changeEnabled k := by
    unfold Core.followSource
    rw [if_neg]
    rw [(enabled.quiet q).check]
    exact fun h => nomatch h.1
  have participation : ((k.relaid st paths).changeEnabled k).followParticipation k = (k.relaid st paths).changeEnabled k := by
    unfold Core.followParticipation
    rw [if_pos ((read_of_view enabled.beside fun k => k.unit.run).trans run)]
  have whole : k.activate st paths = (k.relaid st paths).changeEnabled k := by
    show (((k.relaid st paths).changeEnabled k).followSource).followParticipation k = _
    rw [source, participation]
  rw [whole]
  exact enabled

theorem runKept_relaid (k : Core) (st : Settings) (paths : Option (Vector (Vector (BitVec 12) 32) 32)) :
    k.RunKept (k.relaid st paths) :=
  ((runKept_installSettings k st paths).trans (runKept_relay _ k st)).trans (.of_writer (Core.followPolicy_besideWriter _ k))

/-- Reads of a state that the record ring's change and the pressure ring's leave. -/
theorem relaid_read {α : Type} (F : Core → α) (pressure : ∀ k : Core, F k.clearPressurePosition = F k)
    (writer : ∀ k : Core, F k.besideWriter = F k) (k : Core) (st : Settings) (paths : Option (Vector (Vector (BitVec 12) 32) 32)) :
    F (k.relaid st paths) = F ((k.installSettings st paths).relayRings k st) := by
  have beside : ∀ {x y : Core}, x.besideWriter = y.besideWriter → F x = F y := fun {x y} h => by
    rw [← writer x, ← writer y, h]
  exact (beside (Core.followPolicy_besideWriter _ k)).trans
    ((beside (relay_besideWriter _ k st)).trans (relayStreams_keeps F pressure _ k st))

/-- What an activation in STOPPED makes of the blocks (R14, R22, R53, R87). -/
structure Core.ActivatedStopped (k k' : Core) (st : Settings) (paths : Option (Vector (Vector (BitVec 12) 32) 32)) : Prop where
  run      : k'.unit.run = .stopped
  quiet    : k'.Quiet
  path     : k'.group.path = paths.getD k.group.path
  lead     : k'.streams.lead = k.streams.lead
  horizon  : k'.streams.horizon = k.streams.horizon
  trackers : ∀ c, ∃ b, k'.tracker c = if k.entryChanged st (ringEntryIndex c) then
    { k.tracker c with origin := none, expected := 0, count := 0, stalled := b } else { k.tracker c with stalled := b }
  holds    : ∀ c, k'.holdsOf c = if k.entryChanged st (ringEntryIndex c) then fun _ => none else k.holdsOf c

theorem activate_stopped {k : Core} (st : Settings) (paths : Option (Vector (Vector (BitVec 12) 32) 32)) (q : k.Quiet)
    (run : k.unit.run = .stopped) : k.ActivatedStopped (k.activate st paths) st paths := by
  have kept := runKept_relaid k st paths
  have R := activate_rests st paths (kept.quiet q) (kept.run.trans run)
  have rings := relayRings_besideRelay (k.installSettings st paths) k st
  refine ⟨(read_of_view R.beside fun k => k.unit.run).trans (kept.run.trans run), R.quiet (kept.quiet q), ?_, ?_, ?_, fun c => ?_,
    fun c => ?_⟩
  · exact (read_of_view R.beside fun k => k.group.path).trans
      ((relaid_read (fun k => k.group.path) (fun _ => rfl) (fun _ => rfl) k st paths).trans
        (read_of_view rings fun k => k.group.path))
  · exact (read_of_view R.beside fun k => k.streams.lead).trans
      ((relaid_read (fun k => k.streams.lead) (fun _ => rfl) (fun _ => rfl) k st paths).trans
        (read_of_view rings fun k => k.streams.lead))
  · have relaid : (k.relaid st paths).streams.horizon = k.streams.horizon :=
      (read_of_view (Core.followPolicy_besideWriter _ k) fun k => k.streams.horizon).trans (relay_horizon _ k st)
    exact (read_of_view R.beside fun k => k.streams.horizon).trans relaid
  · obtain ⟨b, hb⟩ := R.trackers c
    refine ⟨b, ?_⟩
    have relaid := (relaid_read (fun k => k.tracker c) (fun _ => rfl) (fun _ => rfl) k st paths).trans
      (relayRings_tracker (k.installSettings st paths) k st c)
    rw [hb, relaid]
    split <;> rfl
  · exact (read_of_view R.beside fun k => k.holdsOf c).trans
      ((relaid_read (fun k => k.holdsOf c) (fun _ => rfl) (fun _ => rfl) k st paths).trans (relayRings_holdsOf _ k st c))

/-! ### The end of the fetch (R178, R179) -/

theorem fetchCompleted_activates {k : Core} {page : Nat} {tag : Num} {paths : Bool} {f : Fetch} {ls : List Block}
    (running : k.unit.running = some (.apply tag paths f)) (last : f.completed + 1 = f.granted)
    (all : f.granted = if paths then 7 else 3) (sound : f.failed = false) (calm : k.unit.disturbed = false)
    (unlocked : k.unit.run = .stopped ∨ k.changesLocked (readSettings (f.data ++ ls)) = false)
    (valid : firstBad page (readSettings (f.data ++ ls)) = none) :
    k.fetchCompleted page (some ls) =
      (k.activate (readSettings (f.data ++ ls)) (if paths then some (readPaths (f.data ++ ls)) else none)).endRunning
        (applyAnswer tag .done .plain) := by
  have ended : (f.receive (some ls)).over paths = true := by
    cases paths <;> simp [Fetch.over, Fetch.receive, last, all, sound, fetchReads]
  have allowed : ¬(k.unit.run ≠ .stopped ∧ k.changesLocked (readSettings (f.data ++ ls)) = true) := by
    rcases unlocked with e | e <;> simp [e]
  unfold Core.fetchCompleted
  rw [running]
  dsimp only
  rw [if_pos ended]
  unfold Core.decideApply Fetch.receive
  dsimp only
  rw [if_neg (by simp [sound]), if_neg (by simp [calm]), if_neg allowed, valid]

/-- A completion for a fetch read reaches the blocks through the fetch alone. -/
theorem receive_fetch {s : State} {i : Issued} {rest : List Issued} {addr : BlockAddr} {len : Fin 8} (lines : Vector Block 8)
    (issued : s.issued = i :: rest) (owner : i.owner = .fetch) (fresh : i.discarded = false) (request : i.request = .read addr len) :
    s.receive (.done lines) =
      if placementAbandoned s.core (s.core.fetchCompleted s.pageBase (some (lines.toList.take (len.val + 1)))) then
        ((s.setIssued rest).setCore (s.core.fetchCompleted s.pageBase (some (lines.toList.take (len.val + 1))))).abandonWrites s.core
      else (s.setIssued rest).setCore (s.core.fetchCompleted s.pageBase (some (lines.toList.take (len.val + 1)))) := by
  unfold State.receive
  rw [issued]
  unfold State.completeFor
  dsimp only
  rw [fresh, owner, request]
  rfl

theorem discardRecord_request (i : Issued) : i.discardRecord.request = i.request := by
  unfold Issued.discardRecord
  split <;> rfl

/-- What the link holds after the last completion of a fetch that leaves `k` behind the link. -/
structure State.FetchEnded (s t : State) (rest : List Issued) (k : Core) : Prop where
  core      : t.core = k
  acq       : t.acq = s.acq
  host      : t.host = s.host
  requests  : t.issued.map Issued.request = rest.map Issued.request
  abandoned : ∀ p, s.core.writer.placement = some p → k.writer.placement = none →
    (∀ x ∈ t.issued, x.owner = .record → x.discarded = true) ∧
      (s.arb.record = true → k.writer.halted = false → t.arb.abandoned = some (s.core.placementWrite p))
  kept      : k.writer.placement = s.core.writer.placement →
    t.issued = rest ∧ (k.writer.halted = false → t.arb.abandoned = s.arb.abandoned)

theorem fetchReadCompletion_ends {s : State} {i : Issued} {rest : List Issued} {addr : BlockAddr} {len : Fin 8}
    (lines : Vector Block 8) (issued : s.issued = i :: rest) (owner : i.owner = .fetch) (fresh : i.discarded = false)
    (request : i.request = .read addr len) :
    ∃ t, exec (.fetchReadCompletion (.done lines)) s = .next t ∧
      s.FetchEnded t rest (s.core.fetchCompleted s.pageBase (some (lines.toList.take (len.val + 1)))) := by
  refine ⟨(s.receive (.done lines)).present, rfl, ?_⟩
  rw [receive_fetch lines issued owner fresh request]
  generalize s.core.fetchCompleted s.pageBase (some (lines.toList.take (len.val + 1))) = k
  by_cases h : placementAbandoned s.core k
  · rw [if_pos h]
    refine ⟨State.present_core _, State.present_acq _, State.present_host _, ?_, fun p hp _ => ⟨?_, fun record running => ?_⟩,
      fun same => ?_⟩
    · rw [State.present_issued]
      show (rest.map Issued.discardRecord).map Issued.request = _
      rw [List.map_map]
      exact List.map_congr_left fun i _ => discardRecord_request i
    · rw [State.present_issued]
      exact State.abandonWrites_ignored _ s.core
    · rw [State.present_abandoned _ running]
      exact s.arb.keepAbandoned_presented s.core p record hp
    · unfold placementAbandoned at h
      rw [same] at h
      cases hp : s.core.writer.placement <;> rw [hp] at h <;> cases h
  · rw [if_neg h]
    refine ⟨State.present_core _, State.present_acq _, State.present_host _, ?_, fun p hp gone => ?_, fun _ => ⟨?_, fun running => ?_⟩⟩
    · rw [State.present_issued]
      rfl
    · exact absurd (by unfold placementAbandoned; rw [hp, gone]; rfl) h
    · rw [State.present_issued]
      rfl
    · exact State.present_abandoned _ running

/-- Reads of the hold table by channel. -/
theorem Core.holdsOf_eq_some {k : Core} {c : Chan} {h : Fin 64} {x : Hold} :
    k.holdsOf c h = some x ↔ k.hold h = some x ∧ x.chan = c := by
  unfold Core.holdsOf
  rw [Option.filter_eq_some_iff, beq_iff_eq]

end Sys2Proof.Machine

open Sys2Proof Sys2Proof.Machine

/-- Settles O43: the last completion decides the APPLY, and the activation leads where its effects, one by one, lead. -/
theorem applyActivates : Obligations.ApplyActivates := by
  intro lines s i rest tag paths f addr len issued owner fresh request running last all sound calm data st unlocked valid
  obtain ⟨t, ht, E⟩ := fetchReadCompletion_ends lines issued owner fresh request
  have raised := le_fetchCompleted s.core s.pageBase (some (lines.toList.take (len.val + 1)))
  rw [fetchCompleted_activates running last all sound calm unlocked valid] at E raised
  obtain ⟨table, htable⟩ : ∃ table, table = if paths then some (readPaths data) else none := ⟨_, rfl⟩
  have unit := activate_unitView s.core st table
  have ring := activate_ring s.core st table
  have stopped := activate_stopped (k := s.core) st table
  rw [← htable] at E raised
  generalize s.core.activate st table = k at E raised unit ring stopped
  have due : k.unit.due = s.core.unit.due := congrArg UnitView.due unit
  refine ⟨t, ht, E.acq, E.host, E.requests, ?_⟩
  rw [E.core]
  refine ⟨congrArg UnitView.settings unit, congrArg UnitView.applied unit, rfl, congrArg (· ++ _) due, raised, fun run q => ?_⟩
  have S := stopped q run
  refine ⟨S.run, ?_, S.lead, S.horizon, fun c => ⟨S.quiet.trackers c, S.quiet.detectors c⟩, fun c changed => ?_,
    fun c same => ?_, fun changed => ?_, fun same => ?_⟩
  · refine S.path.trans ?_
    rw [htable]
    cases paths <;> rfl
  · obtain ⟨b, hb⟩ := S.trackers c
    have holds := S.holds c
    rw [if_pos changed] at hb holds
    have cleared : (k.tracker c).origin = none ∧ (k.tracker c).expected = 0 ∧ (k.tracker c).count = 0 := by
      rw [hb]
      exact ⟨rfl, rfl, rfl⟩
    obtain ⟨origin, expected, count⟩ := cleared
    refine ⟨origin, expected, count, fun h x hx own => ?_⟩
    have held := Core.holdsOf_eq_some.2 ⟨hx, own⟩
    exact absurd ((congrFun holds h).symm.trans held) nofun
  · obtain ⟨b, hb⟩ := S.trackers c
    have holds := S.holds c
    rw [if_neg (by simp [same])] at hb holds
    have kept : (k.tracker c).origin = (s.core.tracker c).origin ∧ (k.tracker c).expected = (s.core.tracker c).expected ∧
        (k.tracker c).count = (s.core.tracker c).count := by
      rw [hb]
      exact ⟨rfl, rfl, rfl⟩
    obtain ⟨origin, expected, count⟩ := kept
    refine ⟨origin, expected, count, fun h x hx own => ?_⟩
    have held := Core.holdsOf_eq_some.2 ⟨hx, own⟩
    exact (Core.holdsOf_eq_some.1 ((congrFun holds h).trans held)).1
  · rw [if_pos changed] at ring
    have halted : k.writer.halted = s.core.writer.halted := congrArg RingView.halted ring
    refine ⟨congrArg RingView.produce ring, congrArg RingView.drain ring, congrArg RingView.occupancy ring,
      congrArg RingView.placement ring, congrArg RingView.nextNumber ring, fun p hp => ?_⟩
    obtain ⟨ignored, presented⟩ := E.abandoned p hp (congrArg RingView.placement ring)
    exact ⟨ignored, fun record running => presented record (halted.trans running)⟩
  · rw [if_neg (by simp [same])] at ring
    have halted : k.writer.halted = s.core.writer.halted := congrArg RingView.halted ring
    obtain ⟨issued, abandoned⟩ := E.kept (congrArg RingView.placement ring)
    exact ⟨congrArg RingView.produce ring, congrArg RingView.drain ring, congrArg RingView.occupancy ring,
      congrArg RingView.placement ring, issued, fun running => abandoned (halted.trans running)⟩

end

section
/-! The threshold, the noise estimate and the context of a hit that opens (R25, R26, R29, R34, R50, R95, R111). -/

namespace Sys2Proof.Machine

/-! ### Threshold and noise estimate -/

theorem ceilDiv_bounds (a : Nat) {b : Nat} (pos : 0 < b) : a ≤ b * ceilDiv a b ∧ b * ceilDiv a b < a + b := by
  unfold ceilDiv
  have split := Nat.div_add_mod (a + b - 1) b
  have small := Nat.mod_lt (a + b - 1) pos
  omega

theorem thresholdFor_fixed {cs : ChannelSettings} (mode : cs.mode = .fixed) (noise : Nat) :
    thresholdFor cs noise = cs.threshold := by
  simp [thresholdFor, mode]

theorem thresholdFor_floating {cs : ChannelSettings} (mode : cs.mode = .floating) (noise : Nat) :
    thresholdFor cs noise = min (max cs.threshold (ceilDiv (noise * cs.margin) 8)) 32767 := by
  simp [thresholdFor, mode]

theorem beginBlock_threshold_of_armed {k : Core} {c : Chan} {e : Option Nat} (armed : (k.detector c).state = .armed e)
    (index start : Nat) (x : BitVec 16) :
    ((k.beginBlock c index start x).detector c).threshold = thresholdFor (k.settingsOf c) (k.detector c).noise := by
  have begins : k.beginBlock c index start x = k.computeThreshold c := by simp [Core.beginBlock, armed]
  simp [begins]

theorem newNoise_of_le {noise m : Nat} (h : m ≤ noise) : newNoise noise m = noise - (noise - m) / 16 := by
  have step : ((m : Int) - noise).tdiv 16 = -(((noise - m) / 16 : Nat) : Int) := by
    have : (m : Int) - noise = -((noise - m : Nat) : Int) := by omega
    rw [this, Int.neg_tdiv, Int.ofNat_tdiv]
    rfl
  unfold newNoise
  rw [step]
  omega

theorem newNoise_of_ge {noise m : Nat} (h : noise ≤ m) : newNoise noise m = noise + (m - noise) / 16 := by
  have step : ((m : Int) - noise).tdiv 16 = (((m - noise) / 16 : Nat) : Int) := by
    have : (m : Int) - noise = ((m - noise : Nat) : Int) := by omega
    rw [this]
    rfl
  unfold newNoise
  rw [step]
  omega

theorem updateNoise_noise (k : Core) (c : Chan) (m : Nat) :
    ((k.updateNoise c m).detector c).noise = newNoise (k.detector c).noise m := by
  simp [Core.updateNoise]

/-! ### The flags of a hit that opens -/

theorem Monitor.belowPeak_iff (m : Monitor) :
    m.belowPeak = true ↔ ∃ x, m.fifo.getLast? = some x ∧ m.peakTol < m.pmax - x := by
  unfold Monitor.belowPeak Monitor.newest
  cases m.fifo.getLast? <;> simp

theorem Core.afterTrigger_iff (k : Core) : k.afterTrigger = true ↔ k.unit.run = .postTrigger ∨ k.unit.run = .frozen := by
  unfold Core.afterTrigger
  cases k.unit.run <;> simp

theorem offerArrival_refused_iff (k : Core) (a : Arrival) :
    (k.offerArrival a).2 = false ↔ k.streams.horizon ≤ a.time ∧ 64 ≤ k.group.arrivals.length := by
  unfold Core.offerArrival
  split
  · simp; omega
  · split
    · simp; omega
    · simp; omega

end Sys2Proof.Machine

open Sys2Proof Sys2Proof.Machine

/-- Settles O48: an ARMED detector computes its threshold as the block begins; in FLOATING mode the quotient is rounded up. -/
theorem thresholdAndNoise : Obligations.ThresholdAndNoise := by
  intro k c cs noise
  refine ⟨fun e index start x armed => ?_, fun m => ?_⟩
  · intro threshold
    have computed : threshold = thresholdFor cs noise := beginBlock_threshold_of_armed armed index start x
    refine ⟨fun mode => computed.trans (thresholdFor_fixed mode noise), fun mode => ?_⟩
    rw [computed, thresholdFor_floating mode]
    obtain ⟨above, below⟩ := ceilDiv_bounds (noise * cs.margin) (b := 8) (by decide)
    exact ⟨Nat.min_le_right _ _, _, below, above, rfl⟩
  · intro after
    have moved : after = newNoise noise m := updateNoise_noise k c m
    exact ⟨fun h => moved.trans (newNoise_of_le h), fun h => moved.trans (newNoise_of_ge h)⟩

/-- Settles O49: `openHit_spec` gives the context, and each flag is what its test says. -/
theorem hitOpens : Obligations.HitOpens := by
  intro k c index t x continuation k'
  obtain ⟨next, -, hold, opened⟩ := openHit_spec k c index t x continuation
  refine ⟨next, _, congrArg Detector.state opened, ?_⟩
  refine ⟨rfl, rfl, rfl, rfl, rfl, rfl, rfl, rfl, rfl, rfl, rfl, rfl, rfl, rfl, rfl, rfl, rfl, rfl, rfl, rfl,
    k.monitor.belowPeak_iff, k.afterTrigger_iff, rfl, rfl, ?_⟩
  simpa using offerArrival_refused_iff k { chan := c, time := t, hit := k.hits.nextHit }

end

section
/-! One sample in one detector (R24 to R39): what the detector of a channel is afterwards, and what a hit that ends there leaves
behind. -/

namespace Sys2Proof.Machine

/-! ### Replacing one detector -/

theorem Core.withDetector_detector (k : Core) (c j : Chan) (d : Detector) :
    (k.withDetector c d).detector j = if c = j then d else k.detector j :=
  Core.detector_setDetector k c j d

@[simp] theorem Core.withDetector_detector_self (k : Core) (c : Chan) (d : Detector) : (k.withDetector c d).detector c = d :=
  Core.detector_setDetector_self k c d

theorem Core.withDetector_withDetector (k : Core) (c : Chan) (d d' : Detector) :
    (k.withDetector c d).withDetector c d' = k.withDetector c d' :=
  setDetector_setDetector k c d d'

@[simp] theorem Core.withDetector_settingsOf (k : Core) (c j : Chan) (d : Detector) :
    (k.withDetector c d).settingsOf j = k.settingsOf j := rfl

theorem enterArmed_eq (k : Core) (c : Chan) (e : Option Nat) :
    k.enterArmed c e = k.withDetector c
      { k.detector c with state := .armed e, threshold := thresholdFor (k.settingsOf c) (k.detector c).noise } := by
  unfold Core.enterArmed Core.computeThreshold
  have now : (k.setDetectorState c (.armed e)).detector c = { k.detector c with state := .armed e } := by simp
  rw [now]
  exact setDetector_setDetector k c _ _

/-- The detector as a normal end leaves it: GUARD, or ARMED when the guard length is 0 (R35). -/
def Detector.afterEnd (d : Detector) (cs : ChannelSettings) (closing guardLen : Nat) : Detector :=
  if guardLen = 0 then { d with state := .armed none, threshold := thresholdFor cs d.noise }
  else { d with state := .guard (closing + guardLen) }

theorem enterGuard_eq (k : Core) (c : Chan) (closing guardLen : Nat) :
    k.enterGuard c closing guardLen =
      k.withDetector c ((k.detector c).afterEnd (k.settingsOf c) closing guardLen) := by
  unfold Core.enterGuard Detector.afterEnd
  split
  · exact enterArmed_eq k c none
  · rfl

theorem Detector.afterEnd_noise (d : Detector) (cs : ChannelSettings) (closing guardLen : Nat) :
    (d.afterEnd cs closing guardLen).noise = d.noise := by
  unfold Detector.afterEnd; split <;> rfl

theorem Detector.afterEnd_prev (d : Detector) (cs : ChannelSettings) (closing guardLen : Nat) :
    (d.afterEnd cs closing guardLen).prev = d.prev := by
  unfold Detector.afterEnd; split <;> rfl

/-! ### A sample that the row takes -/

theorem sampleEvent_taken {s : State} {due : Bool} (h : due = true) (e : SampleEvent) :
    s.LinkKept (s.sampleEvent due e) ∧
      (s.sampleEvent due e).core = s.core.takeSample e.chan e.ringIndex e.time e.sample := by
  have taken : s.sampleEvent due e = (s.setCore (s.core.takeSample e.chan e.ringIndex e.time e.sample)).present := by
    simp [State.sampleEvent, h]
  rw [taken]
  exact ⟨linkKept_setCore s _, by simp⟩

theorem takeSample_of_opened {k : Core} {c : Chan} {h : HitContext} (opened : (k.detector c).state = .opened h)
    (i t : Nat) (x : BitVec 16) : k.takeSample c i t x = k.takeOpen c i h t x := by
  simp [Core.takeSample, opened]

/-! ### A sample in ARMED -/

/-- The sample opens no hit (R28). -/
theorem takeArmed_below {k : Core} {c : Chan} {t : Nat} {x : BitVec 16} {contEnd : Option Nat}
    (continued : ((contEndAt contEnd t).isSome && decide ((k.detector c).threshold ≤ magnitude x)) = false)
    (crossing : crosses (k.detector c).threshold (k.detector c).prev x = false) (i : Nat) :
    k.takeArmed c i contEnd t x =
      k.withDetector c { k.detector c with state := .armed (contEndAt contEnd t), prev := magnitude x } := by
  rw [takeArmed_not k c i t x contEnd (by simp [continued, crossing])]
  exact setState_setPrev k c _ _

/-- What a hit that opens at a sample leaves behind. -/
structure Core.Opened (k k' : Core) (c : Chan) (i t : Nat) (x : BitVec 16) (continuation : Bool) : Prop where
  nextHit : k'.hits.nextHit = k.hits.nextHit + 1
  others  : ∀ j, j ≠ c → k'.detector j = k.detector j
  streams : k'.streams = k.streams
  quiet   : k.streams.horizon ≤ t → k'.writer = k.writer ∧ k'.unit = k.unit
  hit     : ∃ h, k'.detector c = { k.detector c with state := .opened h, prev := magnitude x } ∧
    h.number = k.hits.nextHit ∧ h.arrival = t ∧ h.flags.continuation = continuation ∧ h.counts = 1 ∧
    h.peak = magnitude x ∧ h.openIndex = i

/-- The sample opens a hit, a continuation or not (R28 to R31, R38). -/
theorem takeArmed_opens {k : Core} {c : Chan} {t : Nat} {x : BitVec 16} {contEnd : Option Nat} {continuation : Bool}
    (continued : ((contEndAt contEnd t).isSome && decide ((k.detector c).threshold ≤ magnitude x)) = continuation)
    (opens : continuation = true ∨ crosses (k.detector c).threshold (k.detector c).prev x = true) (i : Nat) :
    k.Opened (k.takeArmed c i contEnd t x) c i t x continuation := by
  have taken : k.takeArmed c i contEnd t x = (k.openHit c i t x continuation).setPrev c (magnitude x) := by
    rw [takeArmed_open k c i t x contEnd (by simpa [continued] using opens), continued]
  obtain ⟨next, others, hold, opened⟩ := openHit_spec k c i t x continuation
  rw [taken]
  refine ⟨next, fun j hj => ?_, openHit_streams k c i t x continuation, openHit_writer k c i t x continuation, ?_⟩
  · rw [Core.setPrev_detector, if_neg (Ne.symm hj), others j hj]
  · rw [setPrev_at, opened]
    exact ⟨_, rfl, rfl, rfl, rfl, rfl, rfl, rfl⟩

/-- Without a continuation end, only a crossing opens a hit (R28). -/
theorem takeArmed_alone (k : Core) (c : Chan) (i t : Nat) (x : BitVec 16) {contEnd : Option Nat}
    (ended : contEndAt contEnd t = none) :
    (crosses (k.detector c).threshold (k.detector c).prev x = false → k.takeArmed c i contEnd t x =
      k.withDetector c { k.detector c with state := .armed none, prev := magnitude x }) ∧
    (crosses (k.detector c).threshold (k.detector c).prev x = true →
      k.Opened (k.takeArmed c i contEnd t x) c i t x false) := by
  have continued : ((contEndAt contEnd t).isSome && decide ((k.detector c).threshold ≤ magnitude x)) = false := by
    simp [ended]
  refine ⟨fun crossing => ?_, fun crossing => takeArmed_opens continued (.inr crossing) i⟩
  rw [takeArmed_below continued crossing i, ended]

/-! ### A sample in OPEN -/

theorem HitContext.countCrossing_eq (h : HitContext) (prev t : Nat) (x : BitVec 16) :
    h.countCrossing (crosses h.threshold prev x) t =
      { h with
        counts := if h.threshold ≤ magnitude x ∧ prev < h.threshold then min (h.counts + 1) 65535 else h.counts
        lastCrossing := if h.threshold ≤ magnitude x ∧ prev < h.threshold then t else h.lastCrossing } := by
  simp only [HitContext.countCrossing, crosses_iff]
  split <;> rfl

theorem HitContext.raisePeak_eq (h : HitContext) (t m : Nat) :
    h.raisePeak t m =
      { h with
        peak := if h.settled = false ∧ h.peak < m then m else h.peak
        peakTime := if h.settled = false ∧ h.peak < m then t else h.peakTime
        countsToPeak := if h.settled = false ∧ h.peak < m then h.counts else h.countsToPeak } := by
  simp only [HitContext.raisePeak, Bool.and_eq_true, Bool.not_eq_true', decide_eq_true_eq]
  split <;> rfl

theorem HitContext.settlePeak_eq (h : HitContext) (t : Nat) :
    h.settlePeak t = { h with settled := if t = h.peakTime + h.peakWin then true else h.settled } := by
  unfold HitContext.settlePeak
  split <;> rfl

theorem HitContext.addEnergy_eq (h : HitContext) (threshold prev : Nat) (x : BitVec 16) :
    h.addEnergy (crosses threshold prev x) x =
      { h with
        energy := h.energy + square x
        snapshot := if threshold ≤ magnitude x ∧ prev < threshold then h.energy + square x else h.snapshot } := by
  simp only [HitContext.addEnergy, crosses_iff]

/-- What one sample makes of the measured values (R32 to R34). -/
theorem HitContext.measure_eq (h : HitContext) (prev t : Nat) (x : BitVec 16) :
    h.measure prev t x =
      let crossing := h.threshold ≤ magnitude x ∧ prev < h.threshold
      let higher := h.settled = false ∧ h.peak < magnitude x
      let counts := if crossing then min (h.counts + 1) 65535 else h.counts
      let peakTime := if higher then t else h.peakTime
      { h with
        counts := counts
        lastCrossing := if crossing then t else h.lastCrossing
        peak := if higher then magnitude x else h.peak
        peakTime := peakTime
        countsToPeak := if higher then counts else h.countsToPeak
        settled := if t = peakTime + h.peakWin then true else h.settled
        energy := h.energy + square x
        snapshot := if crossing then h.energy + square x else h.snapshot } := by
  simp only [HitContext.measure, HitContext.addEnergy_eq, HitContext.countCrossing_eq, HitContext.raisePeak_eq,
    HitContext.settlePeak_eq]

theorem HitContext.measure_hold (h : HitContext) (prev t : Nat) (x : BitVec 16) : (h.measure prev t x).hold = h.hold := by
  rw [HitContext.measure_eq]

theorem HitContext.measure_guardLen (h : HitContext) (prev t : Nat) (x : BitVec 16) :
    (h.measure prev t x).guardLen = h.guardLen := by
  rw [HitContext.measure_eq]

theorem HitContext.endsNormally_iff (h : HitContext) (prev t : Nat) (x : BitVec 16) :
    h.endsNormally prev t x = true ↔
      t = h.lastCrossing + h.closeWin ∧ ¬(h.threshold ≤ magnitude x ∧ prev < h.threshold) := by
  rw [← crosses_iff]
  simp [HitContext.endsNormally, and_comm]

theorem HitContext.isCut_iff (h : HitContext) (prev t : Nat) (x : BitVec 16) :
    h.isCut prev t x = true ↔ t = h.arrival + 32 * h.maxLen ∧ h.endsNormally prev t x = false := by
  simp [HitContext.isCut, HitContext.atCut]

theorem takeOpen_cut {k : Core} {c : Chan} {h : HitContext} {t : Nat} {x : BitVec 16}
    (cut : h.isCut (k.detector c).prev t x = true) (i : Nat) :
    k.takeOpen c i h t x =
      ((k.closeHit h .cut t).enterArmed c (some (t + h.closeWin))).takeArmed c i (some (t + h.closeWin)) t x := by
  simp [Core.takeOpen, cut]

/-- The detector that has measured a sample of its open hit. -/
def Core.measuring (k : Core) (c : Chan) (h : HitContext) (t : Nat) (x : BitVec 16) : Core :=
  k.withDetector c
    { k.detector c with prev := magnitude x, state := .opened (h.measure (k.detector c).prev t x) }

theorem takeOpen_goesOn {k : Core} {c : Chan} {h : HitContext} {t : Nat} {x : BitVec 16}
    (cut : h.isCut (k.detector c).prev t x = false) (ends : h.endsNormally (k.detector c).prev t x = false) (i : Nat) :
    k.takeOpen c i h t x = k.measuring c h t x := by
  simp [Core.takeOpen, cut, ends, setState_setPrev, Core.measuring]

theorem takeOpen_ends {k : Core} {c : Chan} {h : HitContext} {t : Nat} {x : BitVec 16}
    (ends : h.endsNormally (k.detector c).prev t x = true) (i : Nat) :
    k.takeOpen c i h t x =
      ((k.measuring c h t x).closeHit (h.measure (k.detector c).prev t x) .normal t).enterGuard c t
        (h.measure (k.detector c).prev t x).guardLen := by
  have cut : h.isCut (k.detector c).prev t x = false := by simp [HitContext.isCut, ends]
  simp [Core.takeOpen, cut, ends, setState_setPrev, Core.measuring]

/-! ### A hit that closes -/

/-- A hit closes while nothing but the detector of its channel moves before and after: its record is handed over, its hold is
closed, and the rest stays (R39, R46, R76). -/
theorem closeHit_between {k k1 k' : Core} {c : Chan} {d d' : Detector} (h : HitContext) (reason : HitEnd) (t : Nat)
    (before : k1 = k.withDetector c d) (after : k' = (k1.closeHit h reason t).withDetector c d')
    (noise : d.noise = (k.detector c).noise) (noise' : d'.noise = d.noise) :
    k.HandedOver k' (.hit (h.toRecord reason t (k.closingRange h.hold))) ∧ k.HoldClosed k' h.hold ∧ k.CloseKept k' c := by
  subst before after
  obtain ⟨handed, closed, beside⟩ := closeHit_spec (k.withDetector c d) h reason t
  have handed : k.HandedOver ((k.withDetector c d).closeHit h reason t)
      (.hit (h.toRecord reason t (k.closingRange h.hold))) :=
    handed.congr_left rfl
  refine ⟨Core.HandedOver.congr handed rfl rfl, closed, .of ?_ fun j hj => ?_⟩
  · have held : ((k.withDetector c d).closeHit h reason t).besideDetectors = (k.withDetector c d).besideDetectors :=
      Core.besideDetectors_of_holds beside
    refine (Core.setDetector_besideDetectors _ c d' ?_).trans (held.trans (Core.setDetector_besideDetectors k c d noise))
    rw [Core.closeHit_detector, Core.withDetector_detector_self, noise']
  · rw [Core.withDetector_detector, if_neg (Ne.symm hj), Core.closeHit_detector, Core.withDetector_detector,
      if_neg (Ne.symm hj)]

/-- A normal end, whole (R35, R39, R46, R76). -/
theorem takeOpen_closes {k : Core} {c : Chan} {h : HitContext} {t : Nat} {x : BitVec 16}
    (ends : h.endsNormally (k.detector c).prev t x = true) (i : Nat) :
    let measured := h.measure (k.detector c).prev t x
    let k' := k.takeOpen c i h t x
    k.HandedOver k' (.hit (measured.toRecord .normal t (k.closingRange h.hold))) ∧ k.HoldClosed k' h.hold ∧
    k.CloseKept k' c ∧
    k'.detector c = Detector.afterEnd { k.detector c with prev := magnitude x, state := .opened measured }
      (k.settingsOf c) t h.guardLen := by
  intro measured k'
  have hold : measured.hold = h.hold := h.measure_hold _ t x
  have guardLen : measured.guardLen = h.guardLen := h.measure_guardLen _ t x
  have settings : ((k.measuring c h t x).closeHit measured .normal t).settingsOf c = k.settingsOf c :=
    Core.view_settingsOf (Core.closeHit_view _ _ _ _) c
  have closes : k' = ((k.measuring c h t x).closeHit measured .normal t).withDetector c
      (Detector.afterEnd { k.detector c with prev := magnitude x, state := .opened measured } (k.settingsOf c) t
        h.guardLen) := by
    rw [← guardLen, ← settings]
    refine (takeOpen_ends ends i).trans ((enterGuard_eq _ c t _).trans ?_)
    rw [Core.closeHit_detector, Core.measuring, Core.withDetector_detector_self]
  obtain ⟨handed, closed, kept⟩ := closeHit_between measured .normal t rfl closes rfl (Detector.afterEnd_noise _ _ _ _)
  rw [hold] at handed closed
  exact ⟨handed, closed, kept, by rw [closes, Core.withDetector_detector_self]⟩

/-- The detector after the cut, before its sample is taken again (R37). -/
theorem cut_detector (k : Core) (c : Chan) (h : HitContext) (t : Nat) :
    ((k.closeHit h .cut t).enterArmed c (some (t + h.closeWin))).detector c =
      { k.detector c with
        state := .armed (some (t + h.closeWin)), threshold := thresholdFor (k.settingsOf c) (k.detector c).noise } := by
  have settings : (k.closeHit h .cut t).settingsOf c = k.settingsOf c := Core.view_settingsOf (Core.closeHit_view _ _ _ _) c
  rw [enterArmed_eq, Core.withDetector_detector_self, Core.closeHit_detector, settings]

theorem cut_contEndAt (h : HitContext) (t : Nat) : contEndAt (some (t + h.closeWin)) t = some (t + h.closeWin) := by
  simp [contEndAt]

/-- A cut at a sample below the threshold, whole (R37, R38). -/
theorem takeOpen_cutBelow {k : Core} {c : Chan} {h : HitContext} {t : Nat} {x : BitVec 16}
    (cut : h.isCut (k.detector c).prev t x = true)
    (below : magnitude x < thresholdFor (k.settingsOf c) (k.detector c).noise) (i : Nat) :
    let k' := k.takeOpen c i h t x
    k.HandedOver k' (.hit (h.toRecord .cut t (k.closingRange h.hold))) ∧ k.HoldClosed k' h.hold ∧ k.CloseKept k' c ∧
    k'.detector c =
      { k.detector c with
        state := .armed (some (t + h.closeWin)), threshold := thresholdFor (k.settingsOf c) (k.detector c).noise,
        prev := magnitude x } := by
  intro k'
  have now := cut_detector k c h t
  have closes : k' = (k.closeHit h .cut t).withDetector c
      { k.detector c with
        state := .armed (some (t + h.closeWin)), threshold := thresholdFor (k.settingsOf c) (k.detector c).noise,
        prev := magnitude x } := by
    refine (takeOpen_cut cut i).trans ?_
    rw [takeArmed_below (by rw [now]; simp [below]) (by rw [now]; simp [crosses, below]), now, cut_contEndAt, enterArmed_eq,
      Core.withDetector_withDetector]
  obtain ⟨handed, closed, kept⟩ :=
    closeHit_between h .cut t (k := k) (d := k.detector c) (setDetector_self k c).symm closes rfl rfl
  exact ⟨handed, closed, kept, by rw [closes, Core.withDetector_detector_self]⟩

/-- A cut at a sample that reaches the threshold: the hit closes and a continuation opens (R37, R38). -/
theorem takeOpen_cutAbove {k : Core} {c : Chan} {h : HitContext} {t : Nat} {x : BitVec 16}
    (cut : h.isCut (k.detector c).prev t x = true)
    (above : thresholdFor (k.settingsOf c) (k.detector c).noise ≤ magnitude x) (i : Nat) :
    let k2 := (k.closeHit h .cut t).enterArmed c (some (t + h.closeWin))
    k.HandedOver k2 (.hit (h.toRecord .cut t (k.closingRange h.hold))) ∧ k2.streams = k.streams ∧
    k2.hits.nextHit = k.hits.nextHit ∧ (∀ j, j ≠ c → k2.detector j = k.detector j) ∧
    k2.Opened (k.takeOpen c i h t x) c i t x true := by
  intro k2
  obtain ⟨handed, -, kept⟩ :=
    closeHit_between h .cut t (k := k) (d := k.detector c) (setDetector_self k c).symm (enterArmed_eq _ c _) rfl
      (by simp only [Core.closeHit_detector])
  refine ⟨handed, kept.streams, kept.nextHit, kept.others, ?_⟩
  rw [takeOpen_cut cut i]
  refine takeArmed_opens ?_ (.inl rfl) i
  rw [cut_detector, cut_contEndAt]
  simpa using above

/-- The sample settles the peak that it does not exceed (R33). -/
theorem HitContext.measure_settled {h : HitContext} {prev t : Nat} {x : BitVec 16} (low : magnitude x ≤ h.peak)
    (time : t = h.peakTime + h.peakWin) :
    h.measure prev t x =
      { h with
        settled := true
        energy := h.energy + square x
        counts := if h.threshold ≤ magnitude x ∧ prev < h.threshold then min (h.counts + 1) 65535 else h.counts
        lastCrossing := if h.threshold ≤ magnitude x ∧ prev < h.threshold then t else h.lastCrossing
        snapshot := if h.threshold ≤ magnitude x ∧ prev < h.threshold then h.energy + square x else h.snapshot } := by
  have same : ¬(h.settled = false ∧ h.peak < magnitude x) := fun higher => Nat.not_lt.2 low higher.2
  rw [HitContext.measure_eq]
  simp only [if_neg same, if_pos time]

/-! ### A sample in GUARD, and one after a continuation end -/

theorem takeSample_of_armed {k : Core} {c : Chan} {e : Option Nat} (armed : (k.detector c).state = .armed e)
    (i t : Nat) (x : BitVec 16) : k.takeSample c i t x = k.takeArmed c i e t x := by
  simp [Core.takeSample, armed]

/-- The guard end is in the past: the detector has entered ARMED before and tests the sample (R36). -/
theorem takeSample_afterGuard {k : Core} {c : Chan} {g t : Nat} (guarded : (k.detector c).state = .guard g) (past : g < t)
    (i : Nat) (x : BitVec 16) : k.takeSample c i t x = (k.enterArmed c none).takeArmed c i none t x := by
  simp [Core.takeSample, guarded, past]

/-- At the guard end the detector enters ARMED without testing the sample (R36). -/
theorem takeSample_atGuardEnd {k : Core} {c : Chan} {t : Nat} (guarded : (k.detector c).state = .guard t) (i : Nat)
    (x : BitVec 16) : k.takeSample c i t x = k.withDetector c
      { state := .armed none, threshold := thresholdFor (k.settingsOf c) (k.detector c).noise,
        noise := (k.detector c).noise, prev := magnitude x } := by
  simp [Core.takeSample, guarded, Core.takeGuard, setPrev_enterArmed]

/-- What a sample tested against a threshold leaves, where only a crossing opens a hit (R28): a hit that is no continuation, or
the detector waiting in ARMED. -/
structure Core.TestedAlone (k k' : Core) (c : Chan) (t threshold : Nat) (x : BitVec 16) (opens : Prop) : Prop where
  waits : ¬opens → k' = k.withDetector c
    { state := .armed none, threshold := threshold, noise := (k.detector c).noise, prev := magnitude x }
  hit   : opens → k'.hits.nextHit = k.hits.nextHit + 1 ∧ (k'.detector c).threshold = threshold ∧
    (k'.detector c).prev = magnitude x ∧
    ∃ h, (k'.detector c).state = .opened h ∧ h.number = k.hits.nextHit ∧ h.arrival = t ∧ h.flags.continuation = false

/-- A detector in ARMED whose continuation end, if it had one, is past. -/
theorem takeArmed_tests {k : Core} {c : Chan} {t : Nat} {contEnd : Option Nat} (ended : contEndAt contEnd t = none) (i : Nat)
    (x : BitVec 16) {opens : Prop}
    (test : opens ↔ (k.detector c).threshold ≤ magnitude x ∧ (k.detector c).prev < (k.detector c).threshold) :
    k.TestedAlone (k.takeArmed c i contEnd t x) c t (k.detector c).threshold x opens := by
  obtain ⟨below, above⟩ := takeArmed_alone k c i t x ended
  rw [← crosses_iff] at test
  refine ⟨fun no => below ?_, fun yes => ?_⟩
  · rw [test] at no
    simpa using no
  · have opened := above (test.1 yes)
    obtain ⟨h, after, number, arrival, continuation, -⟩ := opened.hit
    rw [after]
    exact ⟨opened.nextHit, rfl, rfl, h, rfl, number, arrival, continuation⟩

theorem takeSample_guardEnd {k : Core} {c : Chan} {g t : Nat} (guarded : (k.detector c).state = .guard g) (due : g ≤ t)
    (i : Nat) (x : BitVec 16) {opens : Prop}
    (test : opens ↔ g < t ∧ thresholdFor (k.settingsOf c) (k.detector c).noise ≤ magnitude x ∧
      (k.detector c).prev < thresholdFor (k.settingsOf c) (k.detector c).noise) :
    k.TestedAlone (k.takeSample c i t x) c t (thresholdFor (k.settingsOf c) (k.detector c).noise) x opens := by
  rcases Nat.lt_or_eq_of_le due with past | now
  · have armed := enterArmed_eq k c none
    have d := congrArg (Core.detector · c) armed
    simp only [Core.withDetector_detector_self] at d
    have tested := takeArmed_tests (k := k.enterArmed c none) (c := c) (t := t) (contEnd := none) rfl i x (opens := opens)
      (by rw [d]; simpa [past] using test)
    rw [d] at tested
    rw [takeSample_afterGuard guarded past]
    refine ⟨fun no => ?_, tested.hit⟩
    rw [tested.waits no, armed, Core.withDetector_withDetector, Core.withDetector_detector_self]
  · subst now
    refine ⟨fun _ => takeSample_atGuardEnd guarded i x, fun yes => ?_⟩
    exact absurd (test.1 yes).1 (Nat.lt_irrefl _)

theorem takeSample_continuationEnd {k : Core} {c : Chan} {g t : Nat} (armed : (k.detector c).state = .armed (some g))
    (past : g < t) (i : Nat) (x : BitVec 16) {opens : Prop}
    (test : opens ↔ (k.detector c).threshold ≤ magnitude x ∧ (k.detector c).prev < (k.detector c).threshold) :
    k.TestedAlone (k.takeSample c i t x) c t (k.detector c).threshold x opens := by
  rw [takeSample_of_armed armed]
  exact takeArmed_tests (by simp [contEndAt, past]) i x test

end Sys2Proof.Machine

open Sys2Proof Sys2Proof.Machine

/-- Settles O28: the sample ends the hit, so the hit closes with what this last sample made of its values. -/
theorem normalEndCloses : Obligations.NormalEndCloses := by
  intro e s h opened time still higher
  have ends : h.endsNormally (s.core.detector e.chan).prev e.time e.sample = true :=
    (h.endsNormally_iff _ _ _).2 ⟨time, still⟩
  have due : s.core.normalEndDue e = true := by simp [Core.normalEndDue, Core.openDue, opened, ends]
  obtain ⟨link, core⟩ := sampleEvent_taken due e
  rw [takeSample_of_opened opened] at core
  obtain ⟨handed, closed, kept, after⟩ := takeOpen_closes ends e.ringIndex
  rw [← core] at handed closed kept after
  have measured := h.measure_eq (s.core.detector e.chan).prev e.time e.sample
  simp only [if_neg still] at measured
  rw [measured] at handed
  refine ⟨_, _, rfl, link, handed, rfl, rfl, rfl, rfl, rfl, rfl, rfl, rfl, fun high => ?_, fun low => ?_, rfl, rfl, closed,
    kept, ?_, ?_, fun guarded => ?_, fun unguarded => ?_⟩
  · exact ⟨if_pos high, congrArg (· - h.arrival) (if_pos high)⟩
  · exact ⟨if_neg low, congrArg (· - h.arrival) (if_neg low)⟩
  · rw [after, Detector.afterEnd_prev]
  · rw [after, Detector.afterEnd_noise]
  · rw [after, Detector.afterEnd, if_neg guarded]; exact ⟨rfl, rfl⟩
  · rw [after, Detector.afterEnd, if_pos unguarded]; exact ⟨rfl, rfl⟩

/-- Settles O29: the hit closes as it stood before the sample, and ARMED takes the sample within the continuation window. -/
theorem cutReopens : Obligations.CutReopens := by
  intro e s h opened time still threshold
  have ends : h.endsNormally (s.core.detector e.chan).prev e.time e.sample = false := by
    rw [← Bool.not_eq_true, h.endsNormally_iff]; exact still
  have cut : h.isCut (s.core.detector e.chan).prev e.time e.sample = true := (h.isCut_iff _ _ _).2 ⟨time, ends⟩
  have due : s.core.cutDue e = true := by simp [Core.cutDue, Core.openDue, opened, cut]
  obtain ⟨link, core⟩ := sampleEvent_taken due e
  rw [takeSample_of_opened opened] at core
  refine ⟨_, h.toRecord .cut e.time (s.core.closingRange h.hold), rfl, link, rfl, rfl, rfl, rfl, rfl, rfl, rfl, rfl, rfl, rfl,
    rfl, ?_⟩
  rcases Nat.lt_or_ge (magnitude e.sample) threshold with below | above
  · obtain ⟨handed, closed, kept, after⟩ := takeOpen_cutBelow cut below e.ringIndex
    rw [← core] at handed closed kept after
    exact ⟨by rw [after], by rw [after], kept.others, kept.streams, fun _ => ⟨by rw [after], handed, closed, kept⟩,
      fun above => absurd below (Nat.not_lt.2 above)⟩
  · obtain ⟨handed, streams, next, others, reopened⟩ := takeOpen_cutAbove cut above e.ringIndex
    obtain ⟨h', after, number, arrival, continuation, counts, peak, index⟩ := reopened.hit
    rw [← core] at reopened after
    refine ⟨?_, ?_, fun j hj => (reopened.others j hj).trans (others j hj), reopened.streams.trans streams,
      fun below => absurd below (Nat.not_lt.2 above), fun _ => ⟨?_, fun horizon => ?_, h', ?_, ?_, arrival, continuation, counts,
      peak, index⟩⟩
    · rw [after]
    · rw [after, cut_detector]
    · rw [reopened.nextHit, next]
    · obtain ⟨writer, unit⟩ := reopened.quiet (by rw [streams]; exact horizon)
      exact handed.congr writer (congrArg CommandUnit.pending unit)
    · rw [after]
    · rw [number, next]

/-- Settles O30: the hit goes on, with the sample measured and the peak settled. -/
theorem peakSettles : Obligations.PeakSettles := by
  intro e s h opened unsettled low time noCut noEnd crossing energy
  have ends : h.endsNormally (s.core.detector e.chan).prev e.time e.sample = false := by
    rw [← Bool.not_eq_true, h.endsNormally_iff]; exact fun ending => noEnd ending.1
  have cut : h.isCut (s.core.detector e.chan).prev e.time e.sample = false := by
    rw [← Bool.not_eq_true, h.isCut_iff]; exact fun cutting => noCut cutting.1
  have due : s.core.peakSettledDue e = true := by
    simp [Core.peakSettledDue, Core.openDue, opened, unsettled, low, ← time, cut]
  obtain ⟨link, core⟩ := sampleEvent_taken due e
  rw [takeSample_of_opened opened, takeOpen_goesOn cut ends, Core.measuring, HitContext.measure_settled low time] at core
  exact ⟨_, rfl, link, core⟩

/-- Settles O31: the guard end, a sample later than it, and a sample later than the continuation end. -/
theorem guardAndContinuationEnd : Obligations.GuardAndContinuationEnd := by
  intro e s i opens threshold d rows
  suffices taken : ∃ t, exec i s = .next t ∧ s.LinkKept t ∧
      s.core.TestedAlone t.core e.chan e.time threshold e.sample opens by
    obtain ⟨t, run, link, tested⟩ := taken
    exact ⟨t, run, link, tested.waits, tested.hit⟩
  rcases rows with ⟨rfl, rfl, g, guarded, late, test⟩ | ⟨rfl, rfl, g, armed, late, test⟩
  · have due : s.core.guardEndDue e = true := by
      have now : (s.core.detector e.chan).state = .guard g := guarded
      simp [Core.guardEndDue, now, late]
    obtain ⟨link, core⟩ := sampleEvent_taken due e
    exact ⟨_, rfl, link, core ▸ takeSample_guardEnd guarded late e.ringIndex e.sample test⟩
  · have due : s.core.continuationEndDue e = true := by
      have now : (s.core.detector e.chan).state = .armed (some g) := armed
      simp [Core.continuationEndDue, now, late]
    obtain ⟨link, core⟩ := sampleEvent_taken due e
    exact ⟨_, rfl, link, core ▸ takeSample_continuationEnd armed late e.ringIndex e.sample test⟩

end

section
/-! A coupling check is taken, and one ends because its source does not answer (R43, R107, R117 to R120, R123 to R125). -/

namespace Sys2Proof.Machine

/-! ### Taking a check (R43, R117, R118) -/

theorem chanOf_val (c : Chan) : chanOf c.val = some c := by simp [chanOf]

theorem enterChecks_besideDetectors (k : Core) :
    (forChans Core.enterCheckAtStart k).besideDetectors = k.besideDetectors :=
  forChans_keeps Core.besideDetectors Core.enterCheckAtStart_besideDetectors k

/-- A detector as the start of a check leaves it (R43). -/
def Core.detectorInCheck (k : Core) (j : Chan) : Detector :=
  if k.enabled j = true ∧ (k.detector j).state ≠ .idle then
    { k.detector j with
      state := .check CheckContext.empty, threshold := thresholdFor (k.settingsOf j) (k.detector j).noise }
  else k.detector j

theorem enterChecks_detector (k : Core) (j : Chan) :
    (forChans Core.enterCheckAtStart k).detector j = k.detectorInCheck j := by
  refine forChans_at (get := Core.detector) (R := fun k k' => k'.besideDetectors = k.besideDetectors) (fun _ => rfl) ?_ ?_ ?_ k j
  · intro k k' c beside
    rw [Core.enterCheckAtStart_besideDetectors, beside]
  · intro k c j other
    rw [Core.enterCheckAtStart_detector, if_neg fun turn => other turn.1.symm]
  · intro k k' j beside same
    have settings : k'.unit.settings = k.unit.settings := read_of_view beside fun k : Core => k.unit.settings
    rw [Core.enterCheckAtStart_detector, same, Core.settingsOf_congr settings, Core.enabled_congr settings]
    simp [Core.detectorInCheck]

/-- What a check that is taken leaves behind (R43, R118, R119). -/
structure Core.CheckTaken (k k' : Core) (c : Chan) (window : Nat) (update : Bool) : Prop where
  check     : k'.check =
    { state := .firing, source := c, window := window, update := update, fireTime := (k.tracker c).time, t0 := none,
      disabled := tabulate fun j => !(k'.detector j).inCheck, stalled := tabulate fun j => (k.tracker j).stalled,
      queued := none, select := BitVec.ofNat 5 c.val, strobe := true }
  detectors : ∀ j, k'.detector j = k.detectorInCheck j
  nextHit   : k'.hits.nextHit = k.hits.nextHit
  streams   : k'.streams = k.streams
  group     : k'.group = k.group
  monitor   : k'.monitor = k.monitor
  run       : k'.unit.run = k.unit.run
  settings  : k'.unit.settings = k.unit.settings
  due       : k'.unit.due = k.unit.due

theorem takeCheck_spec (k : Core) (c : Chan) (window : Nat) (update : Bool) :
    k.CheckTaken (k.takeCheck c window update) c window update := by
  have beside := enterChecks_besideDetectors k
  have streams := read_of_view beside Core.streams
  refine ⟨?_, enterChecks_detector k, read_of_view beside fun k : Core => k.hits.nextHit, streams,
    read_of_view beside Core.group, read_of_view beside Core.monitor, read_of_view beside fun k : Core => k.unit.run,
    read_of_view beside fun k : Core => k.unit.settings, read_of_view beside fun k : Core => k.unit.due⟩
  have tracker : ∀ j, k.tracker j = (forChans Core.enterCheckAtStart k).tracker j :=
    fun j => congrArg (fun x : Streams => look x.chan j) streams.symm
  simp only [tracker]
  rfl

theorem checkRefusal_none {k : Core} {c : Chan} {window : Nat} (run : k.unit.run = .listening) (idle : k.check.state = .idle)
    (placed : k.writer.unplacedCheck = false) (low : 16 ≤ window) (high : window ≤ 4095) (enabled : k.enabled c = true)
    (stalled : (k.tracker c).stalled = false) : k.checkRefusal c.val window = none := by
  have inRange : ¬(window < 16 ∨ 4095 < window) := by omega
  simp [Core.checkRefusal, run, Core.checkRuns, idle, placed, chanOf_val, inRange, Core.participates, enabled, stalled]

theorem takeCheckCommand_taken {k : Core} {c : Chan} {b : Block} (source : checkSource b = c.val)
    (accepted : k.checkRefusal c.val (checkWindow b) = none) :
    k.takeCheckCommand b =
      (k.takeCheck c (checkWindow b) (checkUpdate b)).answer b .done
        (.check (k.takeCheck c (checkWindow b) (checkUpdate b)).check.fireTime) := by
  simp [Core.takeCheckCommand, source, accepted, chanOf_val]

/-! ### The results of a check that does not end COMPLETE (R123, R127) -/

theorem resultOf_source (u : CheckUnit) (ctx : CheckContext) (reason : CheckEnd) :
    u.resultOf u.source ctx reason = .source := by
  simp [CheckUnit.resultOf]

theorem resultOf_of_not_complete (u : CheckUnit) (c : Chan) (ctx : CheckContext) {reason : CheckEnd}
    (h : reason ≠ .complete) :
    u.resultOf c ctx reason ≠ .valid ∧ u.resultOf c ctx reason ≠ .noPulse := by
  unfold CheckUnit.resultOf
  rw [if_pos h]
  split_ifs <;> simp

theorem checkRecord_result (k : Core) (reason : CheckEnd) (cause : Option AbandonCause) (queued : Bool) (j : Chan) :
    (look (k.checkRecord reason cause queued).entries j).result = k.check.resultOf j (k.checkContext j) reason := by
  show (look (tabulate (k.checkEntry reason)) j).result = _
  rw [look_tabulate]
  rfl

/-! ### The end of a check (R43, R107, R125) -/

theorem endCheck_of_not_complete (k : Core) {reason : CheckEnd} (h : reason ≠ .complete) (cause : Option AbandonCause)
    (queued : Bool) :
    k.endCheck reason cause queued = (k.handCheck (k.checkRecord reason cause queued)).setCheckState .idle := by
  have kept : k.updatesPath reason = false := by simp [Core.updatesPath, h]
  simp [Core.endCheck, kept]

/-- The detectors alone move when they leave CHECK. -/
theorem leaveChecks_eq (k : Core) : ∃ x, forChans Core.leaveCheck k = k.setHits x := by
  refine forChans_rel (R := fun k k' => ∃ x, k' = k.setHits x) (fun k => ⟨k.hits, rfl⟩) ?_ k
  rintro k k' c ⟨x, rfl⟩
  unfold Core.leaveCheck
  split <;> exact ⟨_, rfl⟩

theorem raised_pending (pending : Byte) (c : Cause) : (pending ||| c.bit) &&& c.bit = c.bit := by
  ext i
  simpa using Or.inr

/-- A detector as the end of a check leaves it (R43). -/
def Core.detectorAfterCheck (k : Core) (j : Chan) : Detector :=
  if (k.detector j).inCheck = true then
    { k.detector j with state := .armed none, threshold := thresholdFor (k.settingsOf j) (k.detector j).noise }
  else k.detector j

theorem detectorAfterCheck_of_inCheck {k : Core} {j : Chan} (h : (k.detector j).inCheck = true) :
    k.detectorAfterCheck j =
      { k.detector j with state := .armed none, threshold := thresholdFor (k.settingsOf j) (k.detector j).noise } :=
  if_pos h

theorem detectorAfterCheck_of_not_inCheck {k : Core} {j : Chan} (h : (k.detector j).inCheck = false) :
    k.detectorAfterCheck j = k.detector j :=
  if_neg (by simp [h])

/-- What a check that ends without writing its row leaves behind, before a queued trigger is taken. -/
structure Core.CheckClosed (k k' : Core) (r : CheckRecord) : Prop where
  check     : k'.check = { k.check with state := .idle }
  writer    : k'.writer = { k.writer with queue := k.writer.queue ++ [.check r], unplacedCheck := true }
  pending   : k'.unit.pending = k.unit.pending ||| Cause.bit .check
  run       : k'.unit.run = k.unit.run
  group     : k'.group = k.group
  monitor   : k'.monitor = k.monitor
  streams   : k'.streams = k.streams
  detectors : ∀ j, k'.detector j = k.detectorAfterCheck j

theorem endCheck_closed (k : Core) {reason : CheckEnd} (h : reason ≠ .complete) (cause : Option AbandonCause)
    (queued : Bool) :
    k.CheckClosed (forChans Core.leaveCheck (k.endCheck reason cause queued)) (k.checkRecord reason cause queued) := by
  rw [endCheck_of_not_complete k h]
  obtain ⟨x, left⟩ := leaveChecks_eq ((k.handCheck (k.checkRecord reason cause queued)).setCheckState .idle)
  constructor
  case detectors => exact leaveChecks_detector _
  all_goals rw [left]; rfl

theorem inCheck_of_check {d : Detector} {ctx : CheckContext} (h : d.state = .check ctx) : d.inCheck = true := by
  simp [Detector.inCheck, h]

/-- The trigger that was queued while a check ran, as it is taken at the check's end (R107, R125). -/
def QueuedTrigger.taking (q : QueuedTrigger) : TriggerTaking :=
  { source := q.source, extra := q.extra, queued := true, checkAbandoned := false }

/-- What a finished check that wrote no row leaves behind, a queued trigger taken (R107, R125). -/
structure Core.CheckFinished (k k' : Core) (r : CheckRecord) : Prop where
  idle      : k'.check.state = .idle
  unqueued  : k'.check.queued = none
  group     : k'.group = k.group
  unplaced  : k'.writer.unplacedCheck = true
  pending   : k'.unit.pending &&& 32 = 32
  queue     : ∃ rest, k'.writer.queue = k.writer.queue ++ .check r :: rest
  detectors : ∀ j, k'.detector j = k.detectorAfterCheck j ∨ k'.detector j = (k.detectorAfterCheck j).markFrozen
  alone     : k.check.queued = none → k'.unit.run = k.unit.run ∧ k'.monitor = k.monitor ∧ k'.streams = k.streams
  triggered : ∀ q, k.check.queued = some q → k'.monitor.tt = k.streams.horizon ∧
    ∃ p, k'.monitor.post = some p ∧ p.source = q.source ∧ p.extra = q.extra ∧
      (k'.unit.run = .postTrigger ∨ k'.unit.run = .frozen)

/-- No trigger was queued. -/
theorem Core.CheckClosed.finished {k k' : Core} {r : CheckRecord} (closed : k.CheckClosed k' r)
    (none : k.check.queued = none) : k.CheckFinished k' r where
  idle := by rw [closed.check]
  unqueued := by rw [closed.check]; exact none
  group := closed.group
  unplaced := by rw [closed.writer]
  pending := by rw [closed.pending]; exact raised_pending _ .check
  queue := ⟨[], by rw [closed.writer]⟩
  detectors j := .inl (closed.detectors j)
  alone _ := ⟨closed.run, closed.monitor, closed.streams⟩
  triggered q queued := by rw [none] at queued; cases queued

/-- The queued trigger is taken. -/
theorem Core.CheckClosed.triggers {k k' : Core} {r : CheckRecord} (closed : k.CheckClosed k' r) {q : QueuedTrigger}
    (queued : k.check.queued = some q) : k.CheckFinished ((k'.setQueuedTrigger none).takeTrigger q.taking) r := by
  obtain ⟨kept, monitor⟩ := takeTrigger_spec (k'.setQueuedTrigger none) q.taking
  have raised : k'.unit.pending &&& 32 = 32 := by rw [closed.pending]; exact raised_pending _ .check
  refine ⟨?_, ?_, kept.group.trans closed.group, ?_, ?_, ?_, fun j => ?_, fun none => ?_, fun q' queued' => ?_⟩
  · rw [kept.check]
    exact congrArg CheckUnit.state closed.check
  · rw [kept.check]
    rfl
  · rw [kept.unplacedCheck]
    exact congrArg Writer.unplacedCheck closed.writer
  · exact (grows_takeTrigger (k'.setQueuedTrigger none) q.taking).bit 32 raised
  · obtain ⟨rest, queue⟩ := kept.queue
    have before : (k'.setQueuedTrigger none).writer.queue = k.writer.queue ++ [.check r] :=
      congrArg Writer.queue closed.writer
    exact ⟨_, by rw [queue, before, List.append_assoc, List.singleton_append]⟩
  · rw [← closed.detectors j]
    exact kept.detector j
  · rw [none] at queued
    cases queued
  · obtain rfl : q = q' := by rw [queued] at queued'; exact Option.some.inj queued'
    rw [monitor]
    exact ⟨congrArg Streams.horizon closed.streams, _, rfl, rfl, rfl, kept.run⟩

theorem finishCheck_finished (k : Core) {reason : CheckEnd} (h : reason ≠ .complete) :
    k.CheckFinished (k.finishCheck reason) (k.checkRecord reason none k.check.queued.isSome) := by
  have closed := endCheck_closed k h none k.check.queued.isSome
  unfold Core.finishCheck
  cases queued : k.check.queued with
  | none => rw [queued] at closed; exact closed.finished queued
  | some q => rw [queued] at closed; exact closed.triggers queued

/-! ### The fire timeout (R120) -/

/-- At or after the fire time + 4096 the source's sample, heard, finishes the check. -/
theorem takeSample_fireTimeout {k : Core} {c : Chan} {ctx : CheckContext} {t : Nat}
    (inCheck : (k.detector c).state = .check ctx) (source : c = k.check.source) (firing : k.check.state = .firing)
    (late : k.check.fireTime + 4096 ≤ t) (i : Nat) (x : BitVec 16) :
    ∃ ctx', k.takeSample c i t x =
      (k.withDetector c { k.detector c with prev := magnitude x, state := .check ctx' }).finishCheck .noSource := by
  refine ⟨ctx.hear (crosses (k.detector c).threshold (k.detector c).prev x) t (magnitude x), ?_⟩
  have heard : k.check.fireTime ≤ t := by omega
  have watched : ∀ (d : Detector) (crossing : Bool),
      (k.withDetector c d).watchSource c crossing t = (k.withDetector c d).finishCheck .noSource := by
    intro d crossing
    exact (if_pos ⟨source, firing⟩).trans (if_pos late)
  simp [Core.takeSample, inCheck, Core.takeInCheck, heard, setState_setPrev, watched]

/-- A detector that stays in CHECK through a sample leaves it as it would have before. -/
theorem detectorAfterCheck_heard (k : Core) {c : Chan} {d : Detector} (before : (k.detector c).inCheck = true)
    (after : d.inCheck = true) (noise : d.noise = (k.detector c).noise) (j : Chan) :
    ((k.withDetector c d).detectorAfterCheck j).state = (k.detectorAfterCheck j).state ∧
    ((k.withDetector c d).detectorAfterCheck j).threshold = (k.detectorAfterCheck j).threshold := by
  unfold Core.detectorAfterCheck
  by_cases turn : c = j
  · subst turn
    simp [before, after, noise]
  · simp [Core.withDetector_detector, turn]

end Sys2Proof.Machine

open Sys2Proof Sys2Proof.Machine

/-- Settles O14: no test of R117 refuses the CHECK, and R118 sets up the check unit and the detectors. -/
theorem checkFires : Obligations.CheckFires := by
  intro w s c ready busy kind run idle placed source low high enabled stalled
  obtain ⟨t, ht, page, core⟩ := command_run (i := .check w) ready busy kind nofun nofun rfl
  have accepted := checkRefusal_none run idle placed low high enabled stalled
  rw [Core.takeReady, kind] at core
  replace core := core.trans (takeCheckCommand_taken source accepted)
  have taken := takeCheck_spec s.core c (checkWindow (pageData w)) (checkUpdate (pageData w))
  generalize s.core.takeCheck c (checkWindow (pageData w)) (checkUpdate (pageData w)) = k at core taken
  rw [answer_eq (taken.due.trans (busy_due busy).2)] at core
  have check : t.core.check = k.check := by rw [core]
  rw [taken.check] at check
  refine ⟨t, ht, page, ?_⟩
  rw [check, core]
  refine ⟨rfl, rfl, rfl, rfl, rfl, rfl, rfl, Nat.mod_eq_of_lt c.isLt, rfl, look_tabulate _, look_tabulate _,
    taken.detectors, ?_, taken.run.trans run, taken.settings, taken.streams, taken.group, taken.monitor, taken.nextHit⟩
  rw [taken.check]
  rfl

/-- Settles O32: the source's sample finishes the check, which ends without results and then takes a queued trigger. -/
theorem fireTimeoutEnds : Obligations.FireTimeoutEnds := by
  intro e s ctx firing source inCheck late
  have due : s.core.fireTimeoutDue e = true := by
    simp [Core.fireTimeoutDue, firing, source, source ▸ inCheck_of_check inCheck, late]
  obtain ⟨link, core⟩ := sampleEvent_taken due e
  obtain ⟨ctx', taken⟩ := takeSample_fireTimeout inCheck source firing late e.ringIndex e.sample
  have finished := finishCheck_finished (s.core.withDetector e.chan
    { s.core.detector e.chan with prev := magnitude e.sample, state := .check ctx' }) (reason := .noSource) nofun
  rw [← taken, ← core] at finished
  have left := detectorAfterCheck_heard s.core (inCheck_of_check inCheck)
    (d := { s.core.detector e.chan with prev := magnitude e.sample, state := .check ctx' }) rfl rfl
  refine ⟨_, rfl, link, finished.idle, finished.unqueued, finished.group, finished.unplaced, finished.pending, ?_,
    fun j => ⟨fun checked => ?_, fun unchecked => ?_⟩, finished.alone, finished.triggered⟩
  · obtain ⟨rest, queue⟩ := finished.queue
    refine ⟨_, rest, queue, rfl, rfl, rfl, rfl, rfl, rfl, ?_, fun j => ?_⟩
    · rw [checkRecord_result]
      exact resultOf_source _ _ _
    · rw [checkRecord_result]
      exact resultOf_of_not_complete _ j _ nofun
  · obtain ⟨state, threshold⟩ := left j
    rw [detectorAfterCheck_of_inCheck checked] at state threshold
    have after := finished.detectors j
    rw [markFrozen_other _ (fun h opened => by rw [state] at opened; cases opened), or_self] at after
    rw [after]
    exact ⟨state, threshold⟩
  · have state := (left j).1
    rw [detectorAfterCheck_of_not_inCheck unchecked] at state
    rw [← state]
    rcases finished.detectors j with after | after
    · exact .inl (congrArg Detector.state after)
    · exact (markFrozen_state _).imp_left (congrArg Detector.state after).trans

end

section
/-! The sorter and the grouper (R49 to R52, R59, R60): the order of the arrival list, what the closing and the opening of
events leave of the grouper, and an arrival offered and taken. -/

namespace Sys2Proof.Machine

/-! ### The arrival list (R49) -/

theorem Arrival.before_iff (a b : Arrival) :
    a.before b = true ↔ a.time < b.time ∨ a.time = b.time ∧ a.chan.val < b.chan.val := by
  simp [Arrival.before]

theorem Arrival.not_before_iff (a b : Arrival) :
    a.before b = false ↔ b.time < a.time ∨ b.time = a.time ∧ b.chan.val ≤ a.chan.val := by
  rw [← Bool.not_eq_true, Arrival.before_iff]
  omega

/-- What stands before another arrival stands before all that do not stand before that one. -/
theorem Arrival.not_before_of_before {a b c : Arrival} (h : a.before b = true) (hc : c.before b = false) :
    c.before a = false := by
  rw [Arrival.before_iff] at h
  rw [Arrival.not_before_iff] at hc ⊢
  omega

/-- The arrival enters at one place: those before it do not stand after it, and it stands before the next one. -/
theorem insertArrival_split (a : Arrival) (as : List Arrival) :
    ∃ before after, as = before ++ after ∧ insertArrival a as = before ++ a :: after ∧
      (∀ b ∈ before, a.before b = false) ∧ ∀ b ∈ after.head?, a.before b = true := by
  induction as with
  | nil => exact ⟨[], [], rfl, rfl, nofun, nofun⟩
  | cons b bs ih =>
    cases hb : a.before b with
    | true => exact ⟨[], b :: bs, rfl, by simp [insertArrival, hb], nofun, by simpa using hb⟩
    | false =>
      obtain ⟨before, after, split, inserted, left, right⟩ := ih
      exact ⟨b :: before, after, by rw [split, List.cons_append], by simp [insertArrival, hb, inserted],
        List.forall_mem_cons.2 ⟨hb, left⟩, right⟩

theorem inArrivalOrder_insert {a : Arrival} {before after : List Arrival} (ordered : inArrivalOrder (before ++ after))
    (left : ∀ b ∈ before, a.before b = false) (right : ∀ b ∈ after.head?, a.before b = true) :
    inArrivalOrder (before ++ a :: after) := by
  obtain ⟨ob, oa, across⟩ := List.pairwise_append.1 ordered
  have later : ∀ b ∈ after, b.before a = false := by
    cases after with
    | nil => nofun
    | cons b bs =>
      have hb : a.before b = true := right b rfl
      rw [List.forall_mem_cons]
      refine ⟨?_, fun c hc => Arrival.not_before_of_before hb (List.rel_of_pairwise_cons oa hc)⟩
      rw [Arrival.before_iff] at hb
      rw [Arrival.not_before_iff]
      omega
  refine List.pairwise_append.2 ⟨ob, List.pairwise_cons.2 ⟨later, oa⟩, fun b hb => ?_⟩
  rw [List.forall_mem_cons]
  exact ⟨left b hb, across b hb⟩

/-- Taking from the head of an ordered list what lies below a time leaves nothing below it. -/
theorem le_time_of_mem_dropWhile {as : List Arrival} (ordered : inArrivalOrder as) (t : Nat) :
    ∀ a ∈ as.dropWhile fun a => decide (a.time < t), t ≤ a.time := by
  induction as with
  | nil => nofun
  | cons b bs ih =>
    obtain ⟨first, rest⟩ := List.pairwise_cons.1 ordered
    by_cases hb : b.time < t
    · rw [List.dropWhile_cons_of_pos (by simpa using hb)]
      exact ih rest
    · rw [List.dropWhile_cons_of_neg (by simpa using hb), List.forall_mem_cons]
      refine ⟨Nat.not_lt.1 hb, fun a ha => ?_⟩
      have := (Arrival.not_before_iff a b).1 (first a ha)
      omega

/-! ### Closing one event (R60) -/

theorem closeEvent_of_members {k : Core} {i : Fin 8} {e : Event} (h : look k.group.events i = some e)
    (enough : e.minMembers ≤ e.members.length) (reason : EventEnd) :
    k.closeEvent i reason = (k.setEvent i none).handSheddable (.event (k.eventRecord e reason)) := by
  unfold Core.closeEvent
  rw [h]
  exact if_pos enough

theorem closeEvent_of_sparse {k : Core} {i : Fin 8} {e : Event} (h : look k.group.events i = some e)
    (few : e.members.length < e.minMembers) (reason : EventEnd) :
    k.closeEvent i reason =
      (k.setEvent i none).setGroup { (k.setEvent i none).group with sparse := satInc k.group.sparse } := by
  unfold Core.closeEvent
  rw [h]
  exact if_neg (Nat.not_le.2 few)

theorem handSheddable_group (k : Core) (r : Record) : (k.handSheddable r).group = k.group :=
  read_of_view (k.handSheddable_aside r) Core.group

/-- What closing events leaves of the grouper as it is: everything but the event table and the sparse count. -/
def Grouper.besideClosed (g : Grouper) : Grouper := { g with events := Vector.replicate 8 none, sparse := 0 }

theorem closeEvent_besideClosed (k : Core) (i : Fin 8) (reason : EventEnd) :
    (k.closeEvent i reason).group.besideClosed = k.group.besideClosed := by
  cases h : look k.group.events i with
  | none => unfold Core.closeEvent; rw [h]
  | some e =>
    by_cases members : e.minMembers ≤ e.members.length
    · rw [closeEvent_of_members h members, handSheddable_group]; rfl
    · rw [closeEvent_of_sparse h (Nat.not_le.1 members)]; rfl

theorem closeEvents_besideClosed (k : Core) (p : Event → Bool) (reason : EventEnd) :
    (k.closeEvents p reason).group.besideClosed = k.group.besideClosed :=
  foldl_keeps (f := fun k (ie : Fin 8 × Event) => k.closeEvent ie.1 reason) (fun k => k.group.besideClosed)
    (fun k ie => closeEvent_besideClosed k ie.1 reason) _ k

/-! ### An arrival taken (R51, R52) -/

/-- What the sorter keeps of the arrivals it has taken: the last taken time and the late count (R52). -/
def Grouper.taken (g : Grouper) : Option Nat × Nat := (g.lastTaken, g.late)

theorem closeEvent_taken (k : Core) (i : Fin 8) (reason : EventEnd) :
    (k.closeEvent i reason).group.taken = k.group.taken :=
  (congrArg Grouper.taken (closeEvent_besideClosed k i reason) :)

theorem closeBelow_taken (k : Core) (t : Nat) : (k.closeBelow t).group.taken = k.group.taken :=
  (congrArg Grouper.taken (closeEvents_besideClosed k _ .window) :)

theorem openEvent_taken (k : Core) (a : Arrival) : (k.openEvent a).group.taken = k.group.taken := by
  have freed : (if k.group.freeEvent.isNone then k.forceClosure else k).group.taken = k.group.taken := by
    split
    · unfold Core.forceClosure
      split
      · rfl
      · exact closeEvent_taken _ _ _
    · rfl
  unfold Core.openEvent
  dsimp only
  split
  · exact freed
  · exact freed

theorem joinOrOpen_taken (k : Core) (a : Arrival) : (k.joinOrOpen a).group.taken = k.group.taken := by
  unfold Core.joinOrOpen
  split
  · exact openEvent_taken k a
  · rfl

theorem Grouper.isLate_iff (g : Grouper) (a : Arrival) : g.isLate a = true ↔ ∃ t, g.lastTaken = some t ∧ a.time < t := by
  unfold Grouper.isLate
  cases g.lastTaken <;> simp

/-- Lateness is judged by the time taken last before this arrival: closing events does not change it. -/
theorem closeBelow_isLate (k : Core) (t : Nat) (a : Arrival) : (k.closeBelow t).group.isLate a = k.group.isLate a := by
  have last : (k.closeBelow t).group.lastTaken = k.group.lastTaken := congrArg Prod.fst (closeBelow_taken k t)
  unfold Grouper.isLate
  rw [last]

theorem takeArrival_taken_of_late {k : Core} {a : Arrival} (late : k.group.isLate a = true) :
    (k.takeArrival a).group.taken = (k.group.lastTaken, satInc k.group.late) := by
  unfold Core.takeArrival
  dsimp only
  rw [closeBelow_isLate, if_pos late]
  exact congrArg (fun x : Option Nat × Nat => (x.1, satInc x.2)) (closeBelow_taken k a.time)

theorem takeArrival_taken_of_not_late {k : Core} {a : Arrival} (late : k.group.isLate a = false) :
    (k.takeArrival a).group.taken = (some a.time, k.group.late) := by
  unfold Core.takeArrival
  dsimp only
  rw [closeBelow_isLate, if_neg (by rw [late]; nofun), joinOrOpen_taken]
  exact congrArg (fun x : Option Nat × Nat => (some a.time, x.2)) (closeBelow_taken k a.time)

/-! ### An arrival offered (R50) -/

theorem offerArrival_of_below {k : Core} {a : Arrival} (below : a.time < k.streams.horizon) :
    k.offerArrival a = ((k.takeArrival a).closeBelow k.streams.horizon, true) := by
  unfold Core.offerArrival
  exact if_pos below

theorem offerArrival_of_room {k : Core} {a : Arrival} (above : k.streams.horizon ≤ a.time)
    (room : k.group.arrivals.length < 64) :
    k.offerArrival a = (k.setGroup { k.group with arrivals := insertArrival a k.group.arrivals }, true) := by
  unfold Core.offerArrival
  rw [if_neg (Nat.not_lt.2 above), if_pos room]

theorem offerArrival_of_full {k : Core} {a : Arrival} (above : k.streams.horizon ≤ a.time)
    (full : 64 ≤ k.group.arrivals.length) :
    k.offerArrival a = (k.setGroup { k.group with refused := satInc k.group.refused }, false) := by
  unfold Core.offerArrival
  rw [if_neg (Nat.not_lt.2 above), if_neg (Nat.not_lt.2 full)]

end Sys2Proof.Machine

end

section
/-! Sorter and grouper stay sound (R49 to R51, R59, R90): most operations leave alone what `Core.GroupingSound` reads; an
arrival offered, a raised horizon and a new mean keep it sound. -/

namespace Sys2Proof.Machine

/-! ### What the soundness of sorter and grouper reads -/

/-- The arrival list, the event table, the horizon and the means: all that `Core.GroupingSound` speaks of. -/
structure Grouping where
  arrivals : List Arrival
  events   : Vector (Option Event) 8
  horizon  : Nat
  means    : List Nat

def Core.grouping (k : Core) : Grouping :=
  { arrivals := k.group.arrivals, events := k.group.events, horizon := k.streams.horizon, means := k.monitor.fifo }

theorem Core.GroupingSound.of_grouping {k k' : Core} (s : k.GroupingSound) (h : k'.grouping = k.grouping) :
    k'.GroupingSound := by
  obtain ⟨⟨means, arrivals, ordered⟩, above, events⟩ := s
  have ha : k'.group.arrivals = k.group.arrivals := congrArg Grouping.arrivals h
  have he : k'.group.events = k.group.events := congrArg Grouping.events h
  have hh : k'.streams.horizon = k.streams.horizon := congrArg Grouping.horizon h
  have hm : k'.monitor.fifo = k.monitor.fifo := congrArg Grouping.means h
  exact ⟨⟨hm ▸ means, ha ▸ arrivals, ha ▸ ordered⟩, by rw [ha, hh]; exact above, by rw [he, hh]; exact events⟩

/-- Growth keeps the horizon and the means; here it leaves the two lists alone too. -/
theorem Core.Grows.grouping {k k' : Core} (h : k.Grows k') (arrivals : k'.group.arrivals = k.group.arrivals)
    (events : k'.group.events = k.group.events) : k'.grouping = k.grouping := by
  have means : k'.monitor.fifo = k.monitor.fifo := congrArg (fun v : View => v.means.1) h.view
  unfold Core.grouping
  rw [arrivals, events, h.horizon, means]

theorem grouping_of_besideWriter {k k' : Core} (h : k'.besideWriter = k.besideWriter) : k'.grouping = k.grouping :=
  read_of_view h Core.grouping

theorem grouping_of_besideDetectors {k k' : Core} (h : k'.besideDetectors = k.besideDetectors) : k'.grouping = k.grouping :=
  read_of_view h Core.grouping

theorem FreezeKept.grouping {k k' : Core} (h : FreezeKept k k') : k'.grouping = k.grouping := by
  unfold Core.grouping
  rw [h.group, h.horizon, h.monitor]

/-! ### Faults, freezing, triggers and checks leave it alone -/

theorem raiseFault_grouping (k : Core) (i : FaultInfo) : (k.raiseFault i).grouping = k.grouping := by
  rw [raiseFault_eq]
  cases i.place <;> rfl

theorem freezeTested_grouping (k : Core) (c : Chan) (st : FreezeState) :
    (k.freezeRing c st).allFrozenTest.grouping = k.grouping :=
  (allFrozenTest_keeps Core.grouping (fun _ _ => rfl) (fun _ _ => rfl) (fun _ _ => rfl) (fun _ _ => rfl) _).trans
    (freezeRing_kept k c st).grouping

theorem freezeAtOnce_grouping (k : Core) (c : Chan) (st : FreezeState) : (k.freezeAtOnce c st).grouping = k.grouping := by
  unfold Core.freezeAtOnce
  split
  · exact freezeTested_grouping k c st
  · rfl

theorem takeTrigger_grouping (k : Core) (t : TriggerTaking) : (k.takeTrigger t).grouping = k.grouping := by
  have group := (takeTrigger_spec k t).1.group
  exact (grows_takeTrigger k t).grouping (congrArg Grouper.arrivals group) (congrArg Grouper.events group)

theorem extraTrigger_grouping (k : Core) : k.extraTrigger.grouping = k.grouping := by
  unfold Core.extraTrigger
  split <;> rfl

/-- A check that ends writes no more of the grouper than a row of the path table (R124). -/
theorem endCheck_grouping (k : Core) (reason : CheckEnd) (cause : Option AbandonCause) (queued : Bool) :
    (k.endCheck reason cause queued).grouping = k.grouping := by
  have written : ∀ es, (if k.updatesPath reason then k.writeRow es else k).grouping = k.grouping := by
    intro es
    split <;> rfl
  exact written _

theorem leaveChecks_grouping (k : Core) : (forChans Core.leaveCheck k).grouping = k.grouping :=
  forChans_keeps Core.grouping (fun k c => grouping_of_besideDetectors (k.leaveCheck_besideDetectors c)) k

theorem finishCheck_grouping (k : Core) (reason : CheckEnd) : (k.finishCheck reason).grouping = k.grouping := by
  have ended := (leaveChecks_grouping _).trans (endCheck_grouping k reason none k.check.queued.isSome)
  unfold Core.finishCheck
  dsimp only
  split
  · exact (takeTrigger_grouping _ _).trans ended
  · exact ended

theorem abandonByTrigger_grouping (k : Core) (src : TriggerSource) : (k.abandonByTrigger src).1.grouping = k.grouping := by
  have ended : (forChans Core.leaveCheck ((k.endCheck .abandoned (some .trigger) k.check.queued.isSome).setQueuedTrigger
      none)).grouping = k.grouping := (leaveChecks_grouping _).trans (endCheck_grouping k _ _ _)
  unfold Core.abandonByTrigger
  dsimp only
  split
  · exact (takeTrigger_grouping _ _).trans ended
  · exact (extraTrigger_grouping _).trans ((takeTrigger_grouping _ _).trans ended)

theorem dispatchTrigger_grouping (k : Core) (src : TriggerSource) : (k.dispatchTrigger src).1.grouping = k.grouping := by
  unfold Core.dispatchTrigger
  split
  · split
    · split
      · unfold Core.queueTrigger
        split <;> rfl
      · exact abandonByTrigger_grouping k src
    · exact takeTrigger_grouping k _
  all_goals exact extraTrigger_grouping k

theorem finishIfPassed_grouping (k : Core) : k.finishIfPassed.grouping = k.grouping := by
  unfold Core.finishIfPassed
  split
  · exact finishCheck_grouping k _
  · rfl

theorem stallTest_grouping (k : Core) (c : Chan) : (k.stallTest c).grouping = k.grouping := by
  have marked : ∀ k : Core, (k.markStalled c).grouping = k.grouping := by
    intro k
    unfold Core.markStalled
    split <;> rfl
  unfold Core.stallTest
  dsimp only
  split
  · split
    · split <;> rfl
    · split
      · exact (freezeAtOnce_grouping _ _ _).trans ((marked _).trans (raiseFault_grouping _ _))
      · rfl
  · rfl

theorem stallTests_grouping (k : Core) : k.stallTests.grouping = k.grouping :=
  forChans_keeps Core.grouping stallTest_grouping k

/-! ### Arrivals offered and taken -/

theorem times_of_besideEvents {k k' : Core} (h : k'.besideEvents = k.besideEvents) :
    k'.streams.horizon = k.streams.horizon ∧ k'.monitor.fifo = k.monitor.fifo :=
  ⟨read_of_view h fun k => k.streams.horizon, read_of_view h fun k => k.monitor.fifo⟩

/-- With every event closed whose window the horizon has passed, only the arrivals have to lie above it (R51, R59). -/
theorem groupingSound_closeBelow {k : Core} {t : Nat} (horizon : k.streams.horizon = t) (buffers : k.BuffersSound)
    (above : ∀ a ∈ k.group.arrivals, t ≤ a.time) : (k.closeBelow t).GroupingSound := by
  obtain ⟨same, means⟩ := times_of_besideEvents (k.closeBelow_besideEvents t)
  have arrivals : (k.closeBelow t).group.arrivals = k.group.arrivals := closeEvents_arrivals _ _ _
  refine ⟨⟨means ▸ buffers.means, arrivals ▸ buffers.arrivals, arrivals ▸ buffers.ordered⟩, ?_, fun i e he => ?_⟩
  · rw [arrivals, same, horizon]
    exact above
  · rw [Core.closeBelow, closeEvents_events] at he
    obtain ⟨e', -, kept⟩ := Option.bind_eq_some_iff.1 he
    split at kept
    · cases kept
    · rename_i passed
      cases kept
      rw [same, horizon]
      simpa using passed

theorem Core.BuffersSound.takeArrival {k : Core} (b : k.BuffersSound) (a : Arrival) : (k.takeArrival a).BuffersSound := by
  have arrivals := takeArrival_arrivals k a
  have means := (times_of_besideEvents (k.takeArrival_besideEvents a)).2
  exact ⟨means ▸ b.means, arrivals ▸ b.arrivals, arrivals ▸ b.ordered⟩

theorem takeArrival_horizon (k : Core) (a : Arrival) : (k.takeArrival a).streams.horizon = k.streams.horizon :=
  (times_of_besideEvents (k.takeArrival_besideEvents a)).1

/-- The state with another arrival list. -/
def Core.withArrivals (k : Core) (as : List Arrival) : Core := k.setGroup { k.group with arrivals := as }

/-- The state once every arrival below the horizon has left the list and been taken. -/
def Core.tookBelow (k : Core) : Core :=
  (k.group.arrivals.takeWhile fun a => decide (a.time < k.streams.horizon)).foldl Core.takeArrival
    (k.withArrivals (k.group.arrivals.dropWhile fun a => decide (a.time < k.streams.horizon)))

theorem takeArrivals_eq (k : Core) : k.takeArrivals = k.tookBelow.closeBelow k.streams.horizon := rfl

theorem tookBelow_arrivals (k : Core) :
    k.tookBelow.group.arrivals = k.group.arrivals.dropWhile fun a => decide (a.time < k.streams.horizon) :=
  foldl_keeps (fun k : Core => k.group.arrivals) takeArrival_arrivals _ (k.withArrivals _)

theorem tookBelow_horizon (k : Core) : k.tookBelow.streams.horizon = k.streams.horizon :=
  foldl_keeps (fun k : Core => k.streams.horizon) takeArrival_horizon _ (k.withArrivals _)

theorem Core.BuffersSound.tookBelow {k : Core} (b : k.BuffersSound) : k.tookBelow.BuffersSound := by
  have sublist : (k.group.arrivals.dropWhile fun a => decide (a.time < k.streams.horizon)).Sublist k.group.arrivals :=
    List.dropWhile_sublist _
  have start : (k.withArrivals (k.group.arrivals.dropWhile fun a => decide (a.time < k.streams.horizon))).BuffersSound :=
    ⟨b.means, sublist.length_le.trans b.arrivals, b.ordered.sublist sublist⟩
  exact foldl_rel (R := fun k k' => k.BuffersSound → k'.BuffersSound) (fun _ _ a h s => (h s).takeArrival a) _ _ _ id start

/-- Whatever the horizon was raised to, taking the arrivals below it makes sorter and grouper sound (R51, R59). -/
theorem Core.BuffersSound.takeArrivals {k : Core} (b : k.BuffersSound) : k.takeArrivals.GroupingSound := by
  rw [takeArrivals_eq]
  refine groupingSound_closeBelow (tookBelow_horizon k) b.tookBelow ?_
  rw [tookBelow_arrivals]
  exact le_time_of_mem_dropWhile b.ordered _

/-- A list with one more arrival above the horizon, at its place, is as sound as the list before. -/
theorem Core.GroupingSound.listed {k : Core} (s : k.GroupingSound) {a : Arrival} (above : k.streams.horizon ≤ a.time)
    (room : k.group.arrivals.length < 64) : (k.withArrivals (insertArrival a k.group.arrivals)).GroupingSound := by
  obtain ⟨⟨means, -, ordered⟩, lies, events⟩ := s
  obtain ⟨before, after, split, inserted, left, right⟩ := insertArrival_split a k.group.arrivals
  rw [split] at room ordered lies
  rw [inserted]
  refine ⟨⟨means, ?_, inArrivalOrder_insert ordered left right⟩, ?_, events⟩
  · show (before ++ a :: after).length ≤ 64
    rw [List.length_append] at room
    rw [List.length_append, List.length_cons]
    omega
  · obtain ⟨lower, upper⟩ := List.forall_mem_append.1 lies
    exact List.forall_mem_append.2 ⟨lower, List.forall_mem_cons.2 ⟨above, upper⟩⟩

theorem Core.GroupingSound.offerArrival {k : Core} (s : k.GroupingSound) (a : Arrival) :
    (k.offerArrival a).1.GroupingSound := by
  by_cases below : a.time < k.streams.horizon
  · rw [offerArrival_of_below below]
    refine groupingSound_closeBelow (takeArrival_horizon k a) (s.buffers.takeArrival a) ?_
    rw [takeArrival_arrivals]
    exact s.arrivals
  · by_cases room : k.group.arrivals.length < 64
    · rw [offerArrival_of_room (Nat.not_lt.1 below) room]
      exact s.listed (Nat.not_lt.1 below) room
    · rw [offerArrival_of_full (Nat.not_lt.1 below) (Nat.not_lt.1 room)]
      exact s.of_grouping rfl

/-! ### The horizon handed on (R18, R19) -/

theorem Core.GroupingSound.recomputeHorizon {k : Core} (s : k.GroupingSound) (found : Bool) :
    (k.recomputeHorizon found).GroupingSound := by
  have risen : k.streams.horizon ≤ k.newHorizon :=
    (le_recomputeHorizon k found).trans_eq (recomputeHorizon_grows k found).horizon
  have buffers : (k.setHorizon k.newHorizon).BuffersSound := ⟨s.buffers.means, s.buffers.arrivals, s.buffers.ordered⟩
  unfold Core.recomputeHorizon
  dsimp only
  split
  · have passed : ∀ k : Core, k.BuffersSound → k.finishIfPassed.BuffersSound := by
      intro k b
      have kept := finishIfPassed_grouping k
      have arrivals : k.finishIfPassed.group.arrivals = k.group.arrivals := congrArg Grouping.arrivals kept
      have means : k.finishIfPassed.monitor.fifo = k.monitor.fifo := congrArg Grouping.means kept
      exact ⟨means ▸ b.means, arrivals ▸ b.arrivals, arrivals ▸ b.ordered⟩
    have chosen : (k.setHorizon k.newHorizon).choose.2.BuffersSound :=
      ⟨buffers.means, buffers.arrivals, buffers.ordered⟩
    unfold Core.handOnHorizon
    dsimp only
    split
    · split
      · exact (passed _ chosen).takeArrivals
      · exact chosen.takeArrivals.of_grouping (finishIfPassed_grouping _)
    · exact buffers.takeArrivals.of_grouping (finishIfPassed_grouping _)
  · rename_i raised
    have same : k.newHorizon = k.streams.horizon := Nat.le_antisymm (by simpa using raised) risen
    have kept : (k.setHorizon k.newHorizon).GroupingSound := by
      rw [same]
      exact s.of_grouping rfl
    split
    · exact kept.of_grouping (finishIfPassed_grouping _)
    · exact kept

end Sys2Proof.Machine

end

section
/-! Sorter and grouper stay sound under the analysis of a write, under activations, commands and resets, and so under every
step (R49 to R51, R59, R90). -/

namespace Sys2Proof.Machine

/-! ### Samples and blocks -/

theorem requestHold_grouping (k : Core) (c : Chan) (r : HoldRequest) : (k.requestHold c r).1.grouping = k.grouping :=
  read_of_view (requestHold_besideHolds k c r) Core.grouping

theorem closeHit_grouping (k : Core) (h : HitContext) (r : HitEnd) (t : Nat) : (k.closeHit h r t).grouping = k.grouping :=
  grouping_of_besideDetectors (k.closeHit_besideDetectors h r t)

theorem setDetectorState_grouping (k : Core) (c : Chan) (st : DetectorState) :
    (k.setDetectorState c st).grouping = k.grouping := rfl

theorem setPrev_grouping (k : Core) (c : Chan) (m : Nat) : (k.setPrev c m).grouping = k.grouping := rfl

theorem enterArmed_grouping (k : Core) (c : Chan) (e : Option Nat) : (k.enterArmed c e).grouping = k.grouping := rfl

/-- A hit that opens offers its arrival; the rest of its opening leaves sorter and grouper alone (R30). -/
theorem Core.GroupingSound.openHit {k : Core} (s : k.GroupingSound) (c : Chan) (i t : Nat) (x : BitVec 16) (b : Bool) :
    (k.openHit c i t x b).GroupingSound := by
  have numbered : (k.setHits { k.hits with nextHit := k.hits.nextHit + 1 }).GroupingSound := s.of_grouping rfl
  exact (numbered.offerArrival { chan := c, time := t, hit := k.hits.nextHit }).of_grouping (requestHold_grouping _ c _)

theorem Core.GroupingSound.takeArmed {k : Core} (s : k.GroupingSound) (c : Chan) (i : Nat) (e : Option Nat) (t : Nat)
    (x : BitVec 16) : (k.takeArmed c i e t x).GroupingSound := by
  unfold Core.takeArmed
  dsimp only
  split
  · exact (s.openHit c i t x _).of_grouping (setPrev_grouping _ c _)
  · exact s.of_grouping ((setPrev_grouping _ c _).trans (setDetectorState_grouping k c _))

theorem Core.GroupingSound.takeOpen {k : Core} (s : k.GroupingSound) (c : Chan) (i : Nat) (h : HitContext) (t : Nat)
    (x : BitVec 16) : (k.takeOpen c i h t x).GroupingSound := by
  unfold Core.takeOpen
  dsimp only
  split
  · have closed : (k.closeHit h .cut t).GroupingSound := s.of_grouping (closeHit_grouping ..)
    exact (closed.of_grouping (enterArmed_grouping _ c _)).takeArmed ..
  · have measured : ∀ m : HitContext,
        ((k.setDetectorState c (.opened m)).setPrev c (magnitude x)).GroupingSound := fun m =>
      s.of_grouping ((setPrev_grouping _ c _).trans (setDetectorState_grouping k c _))
    split
    · exact (measured _).of_grouping
        ((grouping_of_besideDetectors (enterGuard_besideDetectors ..)).trans (closeHit_grouping ..))
    · exact measured _

theorem watchSource_grouping (k : Core) (c : Chan) (crossing : Bool) (t : Nat) :
    (k.watchSource c crossing t).grouping = k.grouping := by
  unfold Core.watchSource
  split
  · split
    · exact finishCheck_grouping k _
    · split <;> rfl
  · rfl

theorem Core.GroupingSound.takeSample {k : Core} (s : k.GroupingSound) (c : Chan) (i t : Nat) (x : BitVec 16) :
    (k.takeSample c i t x).GroupingSound := by
  unfold Core.takeSample
  split
  · exact s
  · exact s.takeArmed ..
  · exact s.takeOpen ..
  · split
    · exact (s.of_grouping (enterArmed_grouping k c none)).takeArmed ..
    · refine s.of_grouping ?_
      unfold Core.takeGuard
      dsimp only
      split <;> rfl
  · exact s.of_grouping (watchSource_grouping ..)

theorem takeSamples_groupingSound (c : Chan) (i : Nat) (xs : List (BitVec 16)) (t : Nat) (kq : Core × Bool)
    (s : kq.1.GroupingSound) : (Core.takeSamples c i xs t kq).1.GroupingSound := by
  induction xs generalizing t kq with
  | nil => exact s
  | cons x xs ih => obtain ⟨k, q⟩ := kq; exact ih _ _ (Core.GroupingSound.takeSample s c i t x)

theorem beginBlock_grouping (k : Core) (c : Chan) (i start : Nat) (x : BitVec 16) :
    (k.beginBlock c i start x).grouping = k.grouping := by
  unfold Core.beginBlock
  split
  · rfl
  · rfl
  · split <;> rfl
  · split
    · rfl
    · unfold Core.reportBlock
      split
      · unfold Core.growHold
        (repeat' split) <;> rfl
      · rfl
  · rfl

theorem updateNoise_grouping (k : Core) (c : Chan) (m : Nat) : (k.updateNoise c m).grouping = k.grouping := rfl

theorem Core.GroupingSound.takeBlock {k : Core} (s : k.GroupingSound) (c : Chan) (i start : Nat) (data : Block) :
    (k.takeBlock c i start data).GroupingSound := by
  have taken : (Core.takeSamples c i (samplesOf data) start (k.beginBlock c i start (sampleAt data 0), true)).1.GroupingSound :=
    takeSamples_groupingSound c i _ start (_, true) (s.of_grouping (beginBlock_grouping ..))
  unfold Core.takeBlock
  dsimp only
  split
  · exact s
  all_goals
    split
    · exact taken.of_grouping (updateNoise_grouping _ c _)
    · exact taken

/-! ### Acoustic writes (R11) -/

theorem reportSkip_grouping (k : Core) (c : Chan) : (k.reportSkip c).grouping = k.grouping :=
  grouping_of_besideDetectors (reportSkip_beside k c)

theorem takeSkip_grouping (k : Core) (c : Chan) (n d : Nat) : (k.takeSkip c n d).1.grouping = k.grouping := by
  have faulted := (reportSkip_grouping (k.acousticFault c .skip n (some d)) c).trans (raiseFault_grouping ..)
  unfold Core.takeSkip
  dsimp only
  split <;> exact faulted

theorem position_grouping (k : Core) (c : Chan) (n : Nat) (full : Bool) : (k.position c n full).1.grouping = k.grouping := by
  unfold Core.position
  dsimp only
  split
  · rfl
  · exact raiseFault_grouping ..
  · rfl
  · rfl
  · rfl
  · exact takeSkip_grouping ..
  · exact raiseFault_grouping ..

theorem countAbsorbed_grouping (k : Core) (c : Chan) (o : Option (Fin 64)) : (k.countAbsorbed c o).grouping = k.grouping := by
  obtain ⟨hs, h⟩ := countHoldAbsorbed_keeps (k.setTracker c { k.tracker c with absorbed := satInc (k.tracker c).absorbed }) o
  unfold Core.countAbsorbed
  rw [h]
  rfl

theorem guardStage_grouping (k : Core) (c : Chan) (n : Nat) (absorbs : Bool) (held : Option (Fin 64)) (start : Option Nat) :
    (k.guardStage c n absorbs held start).1.grouping = k.grouping := by
  have frozen : (if k.freezesAtWrite c start then (k.freezeRing c .atWrite).allFrozenTest else k).grouping = k.grouping := by
    split
    · exact freezeTested_grouping k c .atWrite
    · rfl
  unfold Core.guardStage
  dsimp only
  split
  · exact (countAbsorbed_grouping ..).trans frozen
  · exact frozen

theorem Core.GroupingSound.recordTime {k : Core} (s : k.GroupingSound) (c : Chan) (start : Nat) (found : Bool) :
    (k.recordTime c start found).GroupingSound := by
  have counted : (k.setCount c (start / 32 + 1)).recomputeLead.GroupingSound := s.of_grouping rfl
  exact (counted.of_grouping (stallTests_grouping _)).recomputeHorizon found

theorem Core.GroupingSound.acousticWrite {k : Core} (s : k.GroupingSound) (c : Chan) (n : Nat) (w : BlockWrite) :
    (k.acousticWrite c n w).1.GroupingSound := by
  have placed := s.of_grouping (position_grouping k c n (w.mask == fullMask))
  have heard : ((k.position c n (w.mask == fullMask)).1.detectStage c n (k.position c n (w.mask == fullMask)).2
      w.data).GroupingSound := by
    unfold Core.detectStage
    split
    · exact placed.takeBlock ..
    · exact placed
  have guarded := heard.of_grouping (guardStage_grouping _ c n (k.absorbsAcoustic c n) (k.holdAt c n)
    (k.position c n (w.mask == fullMask)).2)
  unfold Core.acousticWrite Core.timeStage
  dsimp only
  split
  · exact guarded.recordTime ..
  · exact guarded

/-! ### Pressure writes (R12, R91) -/

theorem pressurePosition_grouping (k : Core) (n : Nat) (full : Bool) : (k.pressurePosition n full).1.grouping = k.grouping := by
  have skip : ∀ d, (k.takePressureSkip n d).1.grouping = k.grouping := by
    intro d
    have faulted : (k.pressureFault .skip n (some d)).grouping = k.grouping := raiseFault_grouping ..
    unfold Core.takePressureSkip
    dsimp only
    split <;> exact faulted
  unfold Core.pressurePosition
  dsimp only
  split
  · rfl
  · exact raiseFault_grouping ..
  · rfl
  · rfl
  · rfl
  · exact skip _
  · exact raiseFault_grouping ..

theorem enterMean_length (m : Monitor) (tolerance x : Nat) (h : m.fifo.length ≤ 16) :
    (m.enterMean tolerance x).fifo.length ≤ 16 := by
  show ((if m.fifo.length < 16 then m.fifo else m.fifo.drop 1) ++ [x]).length ≤ 16
  split <;> simp <;> omega

theorem arm_fifo (m : Monitor) (level : Nat) : (m.arm level).fifo = m.fifo := by
  unfold Monitor.arm
  split
  · split <;> rfl
  all_goals rfl

theorem evaluatePhase_grouping (k : Core) (number : Nat) : (k.evaluatePhase number).grouping = k.grouping := by
  unfold Core.evaluatePhase
  dsimp only
  split
  · rfl
  · exact (grouping_of_besideWriter (Core.handSheddable_besideWriter _ _)).trans rfl

theorem triggerTest_grouping (k : Core) : k.triggerTest.grouping = k.grouping := by
  unfold Core.triggerTest
  split
  · exact dispatchTrigger_grouping (k.setMonitor { k.monitor with arming := .spent }) .pressure
  · rfl

theorem Core.GroupingSound.takePressureBlock {k : Core} (s : k.GroupingSound) (number : Nat) (data : Block) :
    (k.takePressureBlock number data).1.GroupingSound := by
  have entered : (k.setMonitor ((k.monitor.enterMean k.global.belowPeakTol (pressureMean data)).arm
      k.global.armLevel)).GroupingSound := by
    refine ⟨⟨?_, s.buffers.arrivals, s.buffers.ordered⟩, s.arrivals, s.events⟩
    rw [Core.setMonitor_monitor, arm_fifo]
    exact enterMean_length _ _ _ s.buffers.means
  have tested := entered.of_grouping ((triggerTest_grouping _).trans (evaluatePhase_grouping _ number))
  unfold Core.takePressureBlock
  dsimp only
  split
  · exact tested.of_grouping rfl
  · exact tested

theorem Core.GroupingSound.pressureWrite {k : Core} (s : k.GroupingSound) (n : Nat) (w : BlockWrite) :
    (k.pressureWrite n w).1.GroupingSound := by
  have placed := s.of_grouping (pressurePosition_grouping k n (w.mask == fullMask))
  have heard : ((k.pressurePosition n (w.mask == fullMask)).1.monitorStage (k.pressurePosition n (w.mask == fullMask)).2
      w.data).1.GroupingSound := by
    unfold Core.monitorStage
    split
    · exact placed.takePressureBlock ..
    · exact placed
  unfold Core.pressureWrite
  dsimp only
  split
  · exact heard
  · exact heard.of_grouping rfl

/-! ### Activations (R181) -/

theorem releaseList_grouping (hs : List (Fin 64)) (k : Core) : (k.releaseList hs).grouping = k.grouping := by
  obtain ⟨streams, group, monitor, _⟩ := releaseList_keeps hs k
  unfold Core.grouping
  rw [streams, group, monitor]

theorem relay_grouping (k old : Core) (st : Settings) : (k.relay old st).grouping = k.grouping := by
  have rings : (forChans (fun k c => if old.entryChanged st (ringEntryIndex c) then k.relayChannel c else k) k).grouping =
      k.grouping := by
    refine forChans_keeps Core.grouping (fun k c => ?_) k
    split
    · exact releaseList_grouping _ (k.clearPosition c)
    · rfl
  have pressure : ∀ x : Core,
      (if old.entryChanged st 32 then x.clearPressurePosition else x).grouping = x.grouping := by
    intro x
    split <;> rfl
  unfold Core.relay
  dsimp only
  split
  · exact (grouping_of_besideWriter (Core.relayRecordRing_besideWriter _)).trans ((pressure _).trans rings)
  · exact (pressure _).trans rings

theorem disableChannel_grouping (k : Core) (c : Chan) : (k.disableChannel c).grouping = k.grouping := by
  have cleared : ∀ k : Core, (k.clearStalled c).grouping = k.grouping := by
    intro k
    unfold Core.clearStalled
    split <;> rfl
  have marked : ∀ k : Core, (k.markDisabled c).grouping = k.grouping := by
    intro k
    unfold Core.markDisabled
    split <;> rfl
  unfold Core.disableChannel
  rw [freezeAtOnce_grouping, marked, cleared, grouping_of_besideDetectors (k.withdraw_besideDetectors c)]

theorem enableChannel_grouping (k : Core) (c : Chan) : (k.enableChannel c).grouping = k.grouping := by
  unfold Core.enableChannel
  split
  · rfl
  · split <;> rfl

theorem changeEnabled_grouping (k old : Core) : (k.changeEnabled old).grouping = k.grouping := by
  unfold Core.changeEnabled
  dsimp only
  refine (forChans_keeps Core.grouping (fun k c => ?_) _).trans (forChans_keeps Core.grouping (fun k c => ?_) k)
  · split
    · exact enableChannel_grouping k c
    · rfl
  · split
    · exact disableChannel_grouping k c
    · rfl

theorem followSource_grouping (k : Core) : k.followSource.grouping = k.grouping := by
  unfold Core.followSource
  split
  · exact finishCheck_grouping k _
  · rfl

theorem Core.GroupingSound.followParticipation {k : Core} (s : k.GroupingSound) (old : Core) :
    (k.followParticipation old).GroupingSound := by
  unfold Core.followParticipation
  split
  · exact s
  · split
    · have timed : k.recomputeLead.GroupingSound := s.of_grouping rfl
      exact (timed.of_grouping (stallTests_grouping _)).recomputeHorizon false
    · split
      · exact s.of_grouping (stallTests_grouping k)
      · exact s

theorem Core.GroupingSound.activate {k : Core} (s : k.GroupingSound) (st : Settings)
    (paths : Option (Vector (Vector (BitVec 12) 32) 32)) : (k.activate st paths).GroupingSound := by
  have installed : (((k.installSettings st paths).relay k st).followPolicy k).grouping = k.grouping :=
    (grouping_of_besideWriter (Core.followPolicy_besideWriter _ k)).trans (relay_grouping (k.installSettings st paths) k st)
  exact (s.of_grouping ((followSource_grouping _).trans ((changeEnabled_grouping _ k).trans installed))).followParticipation k

theorem Core.GroupingSound.fetchCompleted {k : Core} (s : k.GroupingSound) (page : Nat) (lines : Option (List Block)) :
    (k.fetchCompleted page lines).GroupingSound := by
  unfold Core.fetchCompleted
  split
  · dsimp only
    split
    · unfold Core.decideApply
      dsimp only
      split
      · exact s.of_grouping rfl
      · split
        · exact s.of_grouping rfl
        · split
          · exact s.of_grouping rfl
          · split
            · exact s.of_grouping rfl
            · exact (s.activate ..).of_grouping rfl
    · exact s.of_grouping rfl
  · exact s
  · exact s

/-! ### Resets and commands -/

/-- With the sorter and the grouper as after a reset and no mean entered, they are sound whatever the horizon (R66). -/
theorem groupingSound_of_empty {k : Core} (arrivals : k.group.arrivals = []) (events : ∀ i, look k.group.events i = none)
    (means : k.monitor.fifo.length ≤ 16) : k.GroupingSound where
  buffers := { means := means, arrivals := arrivals ▸ Nat.zero_le _, ordered := arrivals ▸ List.Pairwise.nil }
  arrivals a ha := by rw [arrivals] at ha; cases ha
  events i e he := by rw [events i] at he; cases he

theorem reset_events (path : Vector (Vector (BitVec 12) 32) 32) (i : Fin 8) : look (Grouper.reset path).events i = none :=
  look_replicate _ i

theorem clear_groupingSound (k : Core) (b : Block) : (k.clear b).GroupingSound :=
  groupingSound_of_empty rfl (reset_events k.group.path) (Nat.zero_le _)

theorem startRun_groupingSound (k : Core) : k.startRun.GroupingSound :=
  groupingSound_of_empty rfl (reset_events k.group.path) (Nat.zero_le _)

theorem Core.GroupingSound.stopRun {k : Core} (s : k.GroupingSound) : k.stopRun.GroupingSound := by
  have h := stopRun_spec k
  exact groupingSound_of_empty h.arrivals h.events (by rw [h.monitor]; exact s.buffers.means)

theorem takeCheck_grouping (k : Core) (c : Chan) (window : Nat) (update : Bool) :
    (k.takeCheck c window update).grouping = k.grouping :=
  forChans_keeps Core.grouping (fun k c => grouping_of_besideDetectors (k.enterCheckAtStart_besideDetectors c)) k

theorem thaw_grouping (k : Core) : k.thaw.grouping = k.grouping := rfl

theorem Core.GroupingSound.answer {k : Core} (s : k.GroupingSound) (b : Block) (r : AnswerResult) (d : AnswerDetail) :
    (k.answer b r d).GroupingSound := s.of_grouping (grouping_of_besideWriter (k.answer_besideWriter b r d))

theorem Core.GroupingSound.refuse {k : Core} (s : k.GroupingSound) (b : Block) (r : AnswerResult) :
    (k.refuse b r).GroupingSound := s.of_grouping (grouping_of_besideWriter (k.refuse_besideWriter b r))

theorem Core.GroupingSound.takeStart {k : Core} (s : k.GroupingSound) (b : Block) : (k.takeStart b).GroupingSound := by
  unfold Core.takeStart
  split
  · exact s.refuse ..
  · split
    · exact s.refuse ..
    · split
      · exact s.refuse ..
      · exact (startRun_groupingSound k).answer ..

theorem Core.GroupingSound.takeStop {k : Core} (s : k.GroupingSound) (b : Block) : (k.takeStop b).GroupingSound := by
  unfold Core.takeStop
  split
  · exact s.refuse ..
  · exact s.stopRun.answer ..

theorem Core.GroupingSound.takeTriggerCommand {k : Core} (s : k.GroupingSound) (b : Block) :
    (k.takeTriggerCommand b).GroupingSound := by
  unfold Core.takeTriggerCommand
  split
  · exact s.refuse ..
  · exact (s.of_grouping (dispatchTrigger_grouping k .command)).answer ..

theorem Core.GroupingSound.takeThaw {k : Core} (s : k.GroupingSound) (b : Block) : (k.takeThaw b).GroupingSound := by
  unfold Core.takeThaw
  split
  · exact s.refuse ..
  · split
    · exact s.refuse ..
    · exact (s.of_grouping (thaw_grouping k)).answer ..

theorem Core.GroupingSound.takeCheckCommand {k : Core} (s : k.GroupingSound) (b : Block) :
    (k.takeCheckCommand b).GroupingSound := by
  unfold Core.takeCheckCommand
  split
  · exact s.refuse ..
  · split
    · exact s.refuse ..
    · exact (s.of_grouping (takeCheck_grouping k _ _ _)).answer ..

theorem Core.GroupingSound.takeRelease {k : Core} (s : k.GroupingSound) (b : Block) : (k.takeRelease b).GroupingSound := by
  unfold Core.takeRelease
  split
  · exact s.refuse ..
  · exact (s.of_grouping (releaseList_grouping _ k)).answer ..

theorem Core.GroupingSound.takeReady {k : Core} (s : k.GroupingSound) (b : Block) : (k.takeReady b).GroupingSound := by
  unfold Core.takeReady
  split
  · exact s.of_grouping (grouping_of_besideWriter (k.takeApply_besideWriter b))
  · exact s.takeStart b
  · exact s.takeStop b
  · exact s.takeTriggerCommand b
  · exact s.takeThaw b
  · exact s.takeCheckCommand b
  · exact s.takeRelease b
  · exact s.of_grouping (grouping_of_besideWriter (k.takeSnapshot_besideWriter b))
  · exact clear_groupingSound k b
  · exact s.refuse ..

theorem Core.GroupingSound.takeCommand {k : Core} (s : k.GroupingSound) (b : Block) : (k.takeCommand b).GroupingSound := by
  unfold Core.takeCommand
  split
  · exact clear_groupingSound k b
  · split
    · exact s.of_grouping (grouping_of_besideWriter (k.refuseBusy_besideWriter b))
    · exact s.takeReady b

/-! ### Every operation and every step -/

theorem hostReadReturned_grouping (k : Core) (ps : List Place) : (k.hostReadReturned ps).grouping = k.grouping :=
  (grouping_of_besideWriter (Core.drainRead_besideWriter _ ps)).trans (releaseList_grouping _ k)

theorem Core.Op.groupingSound {page : Nat} {k k' : Core} (h : Core.Op page k k') (s : k.GroupingSound) :
    k'.GroupingSound := by
  have beside : k'.besideWriter = k.besideWriter → k'.GroupingSound := fun e => s.of_grouping (grouping_of_besideWriter e)
  cases h with
  | acousticWrite c n w => exact s.acousticWrite c n w
  | pressureWrite n w => exact s.pressureWrite n w
  | hostAcousticWrite c n =>
    unfold Core.hostAcousticWrite
    split
    · exact s.of_grouping (countAbsorbed_grouping k c _)
    · exact s
  | raiseForeign a => exact beside (k.raiseForeign_besideWriter a)
  | reportPageWrite b => exact beside (k.reportPageWrite_besideWriter b)
  | acknowledge bits => exact beside (k.acknowledge_besideWriter bits)
  | hostReadReturned ps => exact s.of_grouping (hostReadReturned_grouping k ps)
  | raiseDownstream a x =>
    unfold Core.raiseDownstream
    split
    · exact s.of_grouping (raiseFault_grouping ..)
    · exact s.of_grouping (raiseFault_grouping ..)
    all_goals exact s
  | startFetch => exact beside k.startFetch_besideWriter
  | answerCompleted w r => exact beside (k.answerCompleted_besideWriter w r)
  | recordCompleted r => exact beside (k.recordCompleted_besideWriter r)
  | snapshotCompleted r => exact beside (k.snapshotCompleted_besideWriter r)
  | fetchCompleted lines => exact s.fetchCompleted page lines
  | issueAnswer | issueStatus | issueFetch | issueSnapshot | issuePlacement => exact s.of_grouping rfl
  | considerHead now => exact beside (k.considerHead_besideWriter now)
  | stallExpiry now => exact beside (k.stallExpiry_besideWriter now)
  | endStrobe => exact s.of_grouping rfl
  | takeSample c i t x => exact s.takeSample c i t x
  | choose => exact s.of_grouping rfl

theorem Core.StepsTo.groupingSound {page : Nat} {k k' : Core} (h : Core.StepsTo page k k') (s : k.GroupingSound) :
    k'.GroupingSound := by
  rcases h with h | ⟨n, b, pss, rfl⟩
  · induction h with
    | refl => exact s
    | tail _ op ih => exact op.groupingSound ih
  · have chosen : (k.setChoices n).GroupingSound := s.of_grouping rfl
    exact (chosen.takeCommand b).of_grouping (foldl_keeps Core.grouping hostReadReturned_grouping pss _)

end Sys2Proof.Machine

open Sys2Proof Sys2Proof.Machine

/-- Settles O58: a step is a reset, a command or a sequence of operations; each keeps sorter and grouper sound. -/
theorem groupingStaysSound : Obligations.GroupingStaysSound := by
  intro s t sound h
  rcases step_core h with ⟨_, _, _, _, path, n, e⟩ | e
  · rw [e]
    exact reset_groupingSound path n
  · exact e.groupingSound sound

end

section
/-! The sorter and the grouper, one operation each (R50 to R52, R60, R69). -/

open Sys2Proof Sys2Proof.Machine

/-- Settles O51: an arrival above the horizon is listed at its place or refused; one below it is taken, and late or not by
the time taken last. -/
theorem arrivalOffered : Obligations.ArrivalOffered := by
  intro k a out
  refine ⟨fun above room => ?_, fun above full => offerArrival_of_full above full, fun below => ?_⟩
  · obtain ⟨before, after, split, inserted, left, right⟩ := insertArrival_split a k.group.arrivals
    have listed : out = (k.setGroup { k.group with arrivals := before ++ a :: after }, true) :=
      inserted ▸ offerArrival_of_room above room
    refine ⟨congrArg Prod.snd listed, before, after, split, congrArg Prod.fst listed, fun ordered => ?_⟩
    rw [split] at ordered
    exact inArrivalOrder_insert ordered left right
  · have closed : out = ((k.takeArrival a).closeBelow k.streams.horizon, true) := offerArrival_of_below below
    have taken : out.1.group.taken = (k.takeArrival a).group.taken := by rw [closed, closeBelow_taken]
    have arrivals : out.1.group.arrivals = k.group.arrivals := by
      rw [closed]
      exact (closeEvents_arrivals _ _ _).trans (takeArrival_arrivals k a)
    refine ⟨congrArg Prod.snd closed, arrivals, fun late => ?_, fun onTime => ?_⟩
    · have after := taken.trans (takeArrival_taken_of_late ((k.group.isLate_iff a).2 late))
      exact ⟨congrArg Prod.snd after, congrArg Prod.fst after⟩
    · have notLate : k.group.isLate a = false := by
        rw [← Bool.not_eq_true, Grouper.isLate_iff]
        rintro ⟨t, last, lower⟩
        exact absurd (onTime t last) (Nat.not_le.2 lower)
      exact congrArg Prod.fst (taken.trans (takeArrival_taken_of_not_late notLate))

/-- Settles O52: the entry is freed, and the number of members decides between the EVENT record and the sparse count. -/
theorem eventCloses : Obligations.EventCloses := by
  intro k i e reason h k'
  have events := fun j => closeEvent_events k i j reason
  have kept : k'.group.besideClosed = k.group.besideClosed := closeEvent_besideClosed k i reason
  refine ⟨(events i).trans (if_pos rfl), fun j hj => (events j).trans (if_neg (Ne.symm hj)),
    (congrArg Grouper.arrivals kept :), (congrArg Grouper.nextEvent kept :), fun enough => ?_, fun few => ?_⟩
  · have closed : k' = (k.setEvent i none).handSheddable (.event (k.eventRecord e reason)) :=
      closeEvent_of_members h enough reason
    rw [closed]
    refine ⟨(congrArg Grouper.sparse (handSheddable_group (k.setEvent i none) _) :), ?_⟩
    exact (handSheddable_handedOver (k.setEvent i none) _).congr_left rfl
  · have closed := closeEvent_of_sparse h few reason
    exact ⟨(congrArg (fun k : Core => k.group.sparse) closed :), (congrArg Core.writer closed :)⟩

end

section
/-! The path table in capture memory (R53, R151, R156): fields joined into a block are read back one by one. -/

namespace Sys2Proof.Machine

/-! ### Joined fields (R151) -/

theorem getLsbD_foldl_or (fs : List Block) (b : Block) (i : Nat) :
    (fs.foldl (· ||| ·) b).getLsbD i = (b.getLsbD i || fs.any fun f => f.getLsbD i) := by
  induction fs generalizing b with
  | nil => simp
  | cons f fs ih => rw [List.foldl_cons, ih, BitVec.getLsbD_or, List.any_cons, Bool.or_assoc]

theorem getLsbD_joinFields (fs : List Block) (i : Nat) : (joinFields fs).getLsbD i = fs.any fun f => f.getLsbD i := by
  unfold joinFields
  rw [getLsbD_foldl_or]
  simp

/-- A field holds its value in its own bits and nothing elsewhere. -/
theorem getLsbD_putField (o n v : Nat) {i : Nat} (hi : i < 512) :
    (putField o n v).getLsbD i = (decide (8 * o ≤ i) && (decide (i - 8 * o < 8 * n) && v.testBit (i - 8 * o))) := by
  have low : i - 8 * o < 512 := by omega
  unfold putField
  rw [BitVec.getLsbD_shiftLeft, BitVec.getLsbD_setWidth, BitVec.getLsbD_ofNat]
  simp [hi, low, ← decide_not]

/-! ### A row of the path table -/

/-- Bit b of the two-byte field j sees the value of field j alone. -/
theorem getLsbD_putField_pair (c j : Chan) (v : Nat) {b : Nat} (hb : b < 16) :
    (putField (2 * c.val) 2 v).getLsbD (16 * j.val + b) = (decide (c = j) && v.testBit b) := by
  rw [getLsbD_putField _ _ _ (by omega)]
  by_cases same : c = j
  · subst same
    have offset : 16 * c.val + b - 8 * (2 * c.val) = b := by omega
    rw [offset, decide_eq_true (by omega), decide_eq_true (by omega), decide_eq_true rfl]
    simp
  · have apart : c.val ≠ j.val := fun e => same (Fin.ext e)
    rw [decide_eq_false same]
    by_cases below : 8 * (2 * c.val) ≤ 16 * j.val + b
    · rw [decide_eq_false (p := 16 * j.val + b - 8 * (2 * c.val) < 8 * 2) (by omega)]
      simp
    · rw [decide_eq_false below]
      simp

theorem getLsbD_rowBlock (row : Vector (BitVec 12) 32) (j : Chan) {b : Nat} (hb : b < 16) :
    (rowBlock row).getLsbD (16 * j.val + b) = (look row j).toNat.testBit b := by
  unfold rowBlock
  rw [getLsbD_joinFields, List.any_map, Bool.eq_iff_iff, List.any_eq_true]
  simp [getLsbD_putField_pair _ _ _ hb, allChans]

/-- Each entry of a row is read back from the row's block. -/
theorem field_rowBlock (row : Vector (BitVec 12) 32) (j : Chan) : field (rowBlock row) (2 * j.val) 2 = (look row j).toNat := by
  have entry : (rowBlock row).extractLsb' (8 * (2 * j.val)) (8 * 2) = BitVec.ofNat (8 * 2) (look row j).toNat := by
    refine BitVec.eq_of_getLsbD_eq fun b hb => ?_
    have place : 8 * (2 * j.val) + b = 16 * j.val + b := by omega
    rw [BitVec.getLsbD_extractLsb', BitVec.getLsbD_ofNat, place, getLsbD_rowBlock row j hb]
  unfold field
  rw [entry, BitVec.toNat_ofNat]
  exact Nat.mod_eq_of_lt ((look row j).isLt.trans (by decide))

/-- A value that the part has written as a path is loaded unchanged, NEVER included (R156). -/
theorem loadPath_toNat (x : BitVec 12) : loadPath x.toNat = x := by
  unfold loadPath
  split
  · simp
  · apply BitVec.eq_of_toNat_eq
    have := x.isLt
    show 4095 = x.toNat
    omega

theorem tabulate_look {α : Type} {n : Nat} (v : Vector α n) : tabulate (look v) = v := by
  ext i hi
  exact look_tabulate (look v) ⟨i, hi⟩

theorem snapshotBlock_paths (k : Core) (f : Chan) : k.snapshotBlock .paths f.val = rowBlock (look k.group.path f) := by
  show k.pathBlock f.val = _
  unfold Core.pathBlock
  rw [chanOf_val]

end Sys2Proof.Machine

open Sys2Proof Sys2Proof.Machine

/-- Settles O53: each row stands in one block, and each entry in a two-byte field of its own. -/
theorem pathTableReadsBack : Obligations.PathTableReadsBack := by
  intro k data written
  have entry : ∀ f j : Chan, loadPath (field (fetched data (34 + f.val)) (2 * j.val) 2) = look (look k.group.path f) j := by
    intro f j
    rw [written f, snapshotBlock_paths, field_rowBlock, loadPath_toNat]
  unfold readPaths
  simp only [entry]
  calc
    (tabulate fun f => tabulate fun j => look (look k.group.path f) j)
      = tabulate fun f => look k.group.path f := by simp only [tabulate_look]
    _ = k.group.path := tabulate_look _

end

section
/-! The hold table (R70 to R74, R83, R84, R86, R177): a hold asked for, and the holds that a RELEASE and a host read free. -/

namespace Sys2Proof.Machine

/-! ### A hold asked for (R72, R74) -/

theorem freeHold_eq (k : Core) : k.freeHold = Fin.find? fun h => (k.hold h).isNone := Fin.find?_eq_find?_finRange.symm

theorem freeHold_none {k : Core} (full : ∀ h, k.hold h ≠ none) : k.freeHold = none := by
  rw [freeHold_eq, Fin.find?_eq_none_iff]
  exact fun h => Option.isNone_eq_false_iff.2 (Option.isSome_iff_ne_none.2 (full h))

theorem freeHold_lowest {k : Core} {h : Fin 64} (free : k.hold h = none) (lowest : ∀ g, g < h → k.hold g ≠ none) :
    k.freeHold = some h := by
  rw [freeHold_eq, Fin.find?_eq_some_iff]
  exact ⟨Option.isNone_iff_eq_none.2 free,
    fun g below => Option.isNone_eq_false_iff.2 (Option.isSome_iff_ne_none.2 (lowest g below))⟩

/-- The entry that a granted request fills (R74). -/
def HoldRequest.entry (r : HoldRequest) (c : Chan) (range : Nat × Nat) : Hold :=
  { state := .pending, chan := c, first := range.1, count := range.2, capped := false, release := r.mode.release,
    reserved := range.2 + r.maxLen, absorbed := 0, owner := r.hit }

theorem requestHold_granted {k : Core} {c : Chan} {r : HoldRequest} {h : Fin 64} (mode : r.mode ≠ .noHolds)
    (running : (k.tracker c).frozen = false) (room : ¬k.ringSize c / 4 < k.reservedTotal c + (k.newRange c r).2 + r.maxLen)
    (free : k.freeHold = some h) :
    k.requestHold c r = (k.setHold h (some (r.entry c (k.newRange c r))), .held h) := by
  rw [Nat.add_assoc] at room
  unfold Core.requestHold
  dsimp only
  rw [if_neg mode, if_neg (by simp [running]), if_neg room, free]
  rfl

theorem release_onRead_iff {mode : HoldMode} (h : mode ≠ .noHolds) : mode.release = .onRead ↔ mode = .onRead := by
  cases mode
  · exact absurd rfl h
  · exact iff_of_true rfl rfl
  · exact iff_of_false nofun nofun

/-! ### RELEASE (R83, R86, R177) -/

theorem mem_holdsWhere {k : Core} {p : Fin 64 → Hold → Bool} {h : Fin 64} :
    h ∈ k.holdsWhere p ↔ ∃ x, k.hold h = some x ∧ p h x = true := by
  unfold Core.holdsWhere
  rw [List.mem_filter]
  cases k.hold h <;> simp [allHolds]

/-- The holds that a test selects become FREE, and no others. -/
theorem releaseWhere_hold (k : Core) (p : Fin 64 → Hold → Bool) (h : Fin 64) :
    (k.releaseList (k.holdsWhere p)).hold h = (k.hold h).bind fun x => if p h x then none else some x := by
  rw [releaseList_hold]
  cases e : k.hold h with
  | none => simp
  | some x => simp [mem_holdsWhere, e]

/-- The fields of a RELEASE are in range for its scope (R177). -/
def releaseInRange (b : Block) : Prop :=
  (releaseScope b = 1 ∧ releaseHoldNumber b ≤ 63) ∨ (releaseScope b = 2 ∧ releaseChan b ≤ 31) ∨ releaseScope b = 3

theorem chanOf_of_le {n : Nat} (h : n ≤ 31) : ∃ c, chanOf n = some c ∧ c.val = n :=
  ⟨⟨n, Nat.lt_succ_of_le h⟩, dif_pos _, rfl⟩

/-- A RELEASE whose fields are in range names the holds that its scope selects (R86). -/
theorem releaseTargets_of_inRange {k : Core} {b : Block} (h : releaseInRange b) :
    k.releaseTargets b = some (k.holdsWhere (releases b)) := by
  unfold Core.releaseTargets Core.channelHolds releases
  rcases h with ⟨scope, number⟩ | ⟨scope, channel⟩ | scope
  · simp only [scope]
    rw [if_neg (Nat.not_lt.2 number)]
  · simp only [scope]
    obtain ⟨c, named, val⟩ := chanOf_of_le channel
    rw [named, ← val]
    simp only [Option.map_some, Option.some.injEq]
    congr 1
    funext _ x
    rw [Bool.eq_iff_iff, beq_iff_eq, beq_iff_eq, Fin.ext_iff]
  · simp only [scope]

theorem holdsWhere_releases (k : Core) (b : Block) : k.holdsWhere (releases b) = (List.finRange 64).filter (k.released b) := rfl

theorem takeRelease_taken {k : Core} {b : Block} (h : releaseInRange b) :
    k.takeRelease b = (k.releaseList (k.holdsWhere (releases b))).answer b .done
      (.release (k.holdsWhere (releases b)).length (((k.holdsWhere (releases b)).map k.holdAbsorbed).sum)) := by
  unfold Core.takeRelease
  rw [releaseTargets_of_inRange h]

end Sys2Proof.Machine

open Sys2Proof Sys2Proof.Machine

/-- Settles O50: the tests of R72 in their order, and the lowest FREE entry filled by R74. -/
theorem holdRequested : Obligations.HoldRequested := by
  intro k c r
  dsimp only
  refine ⟨fun mode => ?_, fun mode frozen => ?_, fun mode running limit => ?_, fun mode running room full => ?_,
    fun h mode running room free lowest => ?_⟩
  · simp [Core.requestHold, mode]
  · simp [Core.requestHold, mode, frozen]
  · rw [Nat.add_assoc] at limit
    simp [Core.requestHold, mode, running, limit]
  · rw [Nat.add_assoc] at room
    simp [Core.requestHold, mode, running, room, freeHold_none full]
  · rw [requestHold_granted mode running room (freeHold_lowest free lowest)]
    refine ⟨rfl, fun g other => ?_, rfl, rfl, r.entry c (k.newRange c r), Core.hold_setHold_self .., rfl, rfl, rfl, rfl, rfl,
      rfl, rfl, rfl, release_onRead_iff mode⟩
    rw [Core.hold_setHold, if_neg (Ne.symm other)]

/-- Settles O15: in READY the RELEASE is taken at once, and it frees the holds of its scope and forms its answer from what
they were. -/
theorem releaseFreesHolds : Obligations.ReleaseFreesHolds := by
  intro w s i ready busy kind row
  have inRange : releaseInRange (pageData w) := by
    rcases row with ⟨-, scope, field⟩ | ⟨-, scope, field⟩ | ⟨-, scope⟩
    · exact .inl ⟨scope, field⟩
    · exact .inr (.inl ⟨scope, field⟩)
    · exact .inr (.inr scope)
  have arrives : exec i s = .next (s.arrivePage 0 w) := by
    rcases row with ⟨rfl, -⟩ | ⟨rfl, -⟩ | ⟨rfl, -⟩ <;> rfl
  obtain ⟨t, ht, page, core⟩ := command_run ready busy kind nofun nofun arrives
  obtain ⟨streams, group, monitor, check, writer, unit, nextHit, lastFwd, freeze, -⟩ :=
    releaseList_keeps (s.core.holdsWhere (releases (pageData w))) s.core
  have freed := releaseWhere_hold s.core (releases (pageData w))
  have taken : t.core = _ := core.trans ((by simp [Core.takeReady, kind] : s.core.takeReady (pageData w) =
    s.core.takeRelease (pageData w)).trans (takeRelease_taken inRange))
  rw [answer_eq (by rw [unit]; exact (busy_due busy).2), unit] at taken
  refine ⟨t, ht, page, ?_⟩
  rw [taken]
  refine ⟨fun h => (freed h).trans ?_, rfl, streams, group, monitor, check, writer, nextHit, lastFwd, freeze⟩
  unfold Core.released
  cases s.core.hold h with
  | none => exact (ite_self _).symm
  | some x => rfl

end

section
/-! A host read that is returned (R84, R141, R165): the holds that it releases and the record slots that it drains. -/

namespace Sys2Proof.Machine

/-! ### What a read covers (R163) -/

theorem mem_recordSlotsOf {ps : List Place} {n : Nat} : n ∈ recordSlotsOf ps ↔ Place.record n ∈ ps := by
  unfold recordSlotsOf
  rw [List.mem_filterMap]
  constructor
  · rintro ⟨p, hp, covered⟩
    cases p <;> cases covered
    exact hp
  · exact fun h => ⟨_, h, rfl⟩

theorem mem_acousticIndices {c : Chan} {ps : List Place} {n : Nat} : n ∈ acousticIndices c ps ↔ Place.acoustic c n ∈ ps := by
  unfold acousticIndices
  rw [List.mem_filterMap]
  constructor
  · rintro ⟨p, hp, covered⟩
    cases p <;> simp only [reduceCtorEq, Option.ite_none_right_eq_some, Option.some.injEq] at covered
    obtain ⟨rfl, rfl⟩ := covered
    exact hp
  · exact fun h => ⟨_, h, if_pos rfl⟩

/-! ### Holds released by a read (R84) -/

/-- The holds of ON_READ that are HELD and whose last index the read covers become FREE, and no others. -/
theorem readRelease_hold (k : Core) (ps : List Place) (h : Fin 64) :
    (k.readRelease ps).hold h = (k.hold h).bind fun x =>
      if x.state = .held ∧ x.release = .onRead ∧ Place.acoustic x.chan (x.last (k.ringSize x.chan)) ∈ ps then none
      else some x := by
  unfold Core.readRelease
  rw [releaseWhere_hold]
  congr 1
  funext x
  refine if_congr ?_ rfl rfl
  rw [Bool.and_eq_true, Bool.and_eq_true, beq_iff_eq, beq_iff_eq, List.contains_iff_mem, mem_acousticIndices, and_assoc]

/-! ### Slots drained by a read (R141) -/

/-- The slots from d on, i of them, are covered, and the loop would release one more if it could. -/
theorem drainLoop_covered (slots : List Nat) (size : Nat) {fuel d occ : Nat} (inRing : d < size) :
    ∃ i, i ≤ occ ∧ drainLoop slots size fuel d occ = ((d + i) % size, occ - i) ∧ (∀ j, j < i → (d + j) % size ∈ slots) ∧
      (i < occ → i = fuel ∨ (d + i) % size ∉ slots) := by
  induction fuel generalizing d occ with
  | zero => exact ⟨0, Nat.zero_le _, by rw [drainLoop, Nat.add_zero, Nat.mod_eq_of_lt inRing]; rfl, nofun, fun _ => .inl rfl⟩
  | succ fuel ih =>
    by_cases goesOn : d ∈ slots ∧ 0 < occ
    · have pos : 0 < size := Nat.lt_of_le_of_lt (Nat.zero_le d) inRing
      have next : ∀ j, ((d + 1) % size + j) % size = (d + (j + 1)) % size := fun j => by
        rw [Nat.mod_add_mod, Nat.add_assoc, Nat.add_comm 1 j]
      obtain ⟨i, bound, eq, covered, stops⟩ := ih (d := (d + 1) % size) (occ := occ - 1) (Nat.mod_lt _ pos)
      refine ⟨i + 1, by omega, ?_, fun j hj => ?_, fun more => ?_⟩
      · rw [drainLoop, if_pos goesOn, eq, next, Nat.sub_sub, Nat.add_comm 1 i]
      · cases j with
        | zero => rw [Nat.add_zero, Nat.mod_eq_of_lt inRing]; exact goesOn.1
        | succ j => rw [← next]; exact covered j (by omega)
      · rw [← next]
        exact (stops (by omega)).imp (congrArg (· + 1)) id
    · refine ⟨0, Nat.zero_le _, ?_, nofun, fun more => .inr fun h => goesOn ⟨?_, more⟩⟩
      · rw [drainLoop, if_neg goesOn, Nat.add_zero, Nat.mod_eq_of_lt inRing]
        rfl
      · rwa [Nat.add_zero, Nat.mod_eq_of_lt inRing] at h

/-- A list that holds i consecutive slots of a ring of at least i has at least i entries. -/
theorem le_length_of_covered {slots : List Nat} {size d i : Nat} (bound : i ≤ size)
    (covered : ∀ j, j < i → (d + j) % size ∈ slots) : i ≤ slots.length := by
  have distinct : ((List.range i).map fun j => (d + j) % size).Nodup := by
    refine List.Nodup.map_on (fun a ha b hb same => ?_) List.nodup_range
    rw [List.mem_range] at ha hb
    exact (Nat.ModEq.add_left_cancel' d same).eq_of_lt_of_lt (ha.trans_le bound) (hb.trans_le bound)
  have within : ((List.range i).map fun j => (d + j) % size) ⊆ slots := by
    intro n hn
    obtain ⟨j, hj, rfl⟩ := List.mem_map.1 hn
    exact covered j (List.mem_range.1 hj)
  simpa using (List.subperm_of_subset distinct within).length_le

/-- What a read drains: the covered slots from the drain index on, as far as they are occupied. The loop has a turn for each
record block of the read, which is enough since the covered slots are distinct. -/
theorem drainLoop_spec {slots : List Nat} {size d occ : Nat} (inRing : d < size) (room : occ < size) :
    ∃ i, i ≤ occ ∧ drainLoop slots size slots.length d occ = ((d + i) % size, occ - i) ∧
      (∀ j, j < i → (d + j) % size ∈ slots) ∧ (i < occ → (d + i) % size ∉ slots) := by
  obtain ⟨i, bound, eq, covered, stops⟩ := drainLoop_covered slots size (fuel := slots.length) (occ := occ) inRing
  refine ⟨i, bound, eq, covered, fun more one => ?_⟩
  rcases stops more with all | missing
  · have : i + 1 ≤ slots.length := le_length_of_covered (size := size) (d := d) (by omega) fun j hj => by
      rcases Nat.lt_succ_iff_lt_or_eq.1 hj with hj | rfl
      · exact covered j hj
      · exact one
    omega
  · exact missing one

/-- The exit test leaves SHEDDING at or below the resume mark (R143). -/
theorem exitTest_placing {k : Core} (mode : k.writer.mode = .shedding) (low : k.writer.occupancy ≤ k.global.resumeMark) :
    k.exitTest.writer.mode = .placing := by
  unfold Core.exitTest
  rw [if_pos ⟨mode, low⟩]
  unfold Core.handLossIfCounted
  split <;> rfl

/-- What the drain of the i oldest slots makes of the record writer. -/
structure Core.Drained (k k' : Core) (i : Nat) : Prop where
  drain     : k'.writer.drain = (k.writer.drain + i) % k.slots
  occupancy : k'.writer.occupancy = k.writer.occupancy - i
  produce   : k'.writer.produce = k.writer.produce
  resumes   : k.writer.mode = .shedding → k'.writer.occupancy < k.writer.occupancy →
    k'.writer.occupancy ≤ k.global.resumeMark → k'.writer.mode = .placing

theorem Core.Drained.none {k : Core} (inRing : k.writer.drain < k.slots) : k.Drained k 0 where
  drain := (Nat.mod_eq_of_lt inRing).symm
  occupancy := rfl
  produce := rfl
  resumes _ less := absurd less (Nat.lt_irrefl _)

/-- The drain index and the occupancy moved, before the exit test. -/
def Core.drainMoved (k : Core) (i : Nat) : Core :=
  k.setWriter { k.writer with drain := (k.writer.drain + i) % k.slots, occupancy := k.writer.occupancy - i }

theorem drainMoved_drained (k : Core) (i : Nat) : k.Drained (k.drainMoved i).exitTest i := by
  have ring : (k.drainMoved i).exitTest.writer.ring = (k.drainMoved i).writer.ring :=
    congrArg View.ring (k.drainMoved i).exitTest_view
  have occupancy : (k.drainMoved i).exitTest.writer.occupancy = k.writer.occupancy - i := congrArg RingView.occupancy ring
  refine ⟨congrArg RingView.drain ring, occupancy, congrArg RingView.produce ring, fun mode _ low => ?_⟩
  rw [occupancy] at low
  exact exitTest_placing mode low

theorem drainRead_drained {k : Core} (ps : List Place) (inRing : k.writer.drain < k.slots) (room : k.writer.occupancy < k.slots) :
    ∃ i, i ≤ k.writer.occupancy ∧ k.Drained (k.drainRead ps) i ∧
      (∀ j, j < i → Place.record ((k.writer.drain + j) % k.slots) ∈ ps) ∧
      (i < k.writer.occupancy → Place.record ((k.writer.drain + i) % k.slots) ∉ ps) := by
  obtain ⟨i, bound, loop, covered, stops⟩ := drainLoop_spec (slots := recordSlotsOf ps) inRing room
  refine ⟨i, bound, ?_, fun j hj => mem_recordSlotsOf.1 (covered j hj), fun more h => stops more (mem_recordSlotsOf.2 h)⟩
  unfold Core.drainRead
  dsimp only
  rw [loop]
  split
  · obtain rfl : i = 0 := by omega
    exact .none inRing
  · exact drainMoved_drained k i

/-! ### The return of a read (R165) -/

theorem readRelease_keeps (k : Core) (ps : List Place) :
    (k.readRelease ps).streams = k.streams ∧ (k.readRelease ps).group = k.group ∧ (k.readRelease ps).check = k.check ∧
      (k.readRelease ps).writer = k.writer := by
  unfold Core.readRelease
  generalize k.holdsWhere _ = hs
  obtain ⟨streams, group, _, check, writer, -⟩ := releaseList_keeps hs k
  exact ⟨streams, group, check, writer⟩

/-- The drain test that follows touches neither the holds nor these blocks. -/
theorem hostReadReturned_beside (k : Core) (ps : List Place) :
    (∀ h, (k.hostReadReturned ps).hold h = (k.readRelease ps).hold h) ∧ (k.hostReadReturned ps).streams = k.streams ∧
      (k.hostReadReturned ps).group = k.group ∧ (k.hostReadReturned ps).check = k.check := by
  obtain ⟨streams, group, check, -⟩ := readRelease_keeps k ps
  have beside := Core.drainRead_besideWriter (k.readRelease ps) ps
  exact ⟨fun h => read_of_view beside fun k => k.hold h, (read_of_view beside Core.streams).trans streams,
    (read_of_view beside Core.group).trans group, (read_of_view beside Core.check).trans check⟩

/-- The release comes before the drain and touches neither the record writer nor the settings. -/
theorem hostReadReturned_drained {k : Core} (ps : List Place) (inRing : k.writer.drain < k.slots)
    (room : k.writer.occupancy < k.slots) :
    ∃ i, i ≤ k.writer.occupancy ∧ k.Drained (k.hostReadReturned ps) i ∧
      (∀ j, j < i → Place.record ((k.writer.drain + j) % k.slots) ∈ ps) ∧
      (i < k.writer.occupancy → Place.record ((k.writer.drain + i) % k.slots) ∉ ps) := by
  obtain ⟨-, -, -, writer⟩ := readRelease_keeps k ps
  have slots : (k.readRelease ps).slots = k.slots := congrArg LayoutEntry.size (Core.view_layoutEntry (k.readRelease_view ps) 33)
  have global : (k.readRelease ps).global = k.global := Core.view_global (k.readRelease_view ps)
  rw [← writer, ← slots] at inRing room
  obtain ⟨i, bound, ⟨drain, occupancy, produce, resumes⟩, covered, stops⟩ := drainRead_drained ps inRing room
  rw [writer, slots] at drain covered stops
  rw [writer] at bound occupancy produce
  rw [writer, global] at resumes
  exact ⟨i, bound, ⟨drain, occupancy, produce, resumes⟩, covered, stops⟩

/-! ### The completion of a read that is alone at its port (R165) -/

theorem entryReturned_failed (k : Core) (p : Port) (e : Accepted) : k.entryReturned p e .failed = k := by
  unfold Core.entryReturned
  cases p with
  | acquisition => rfl
  | host => cases e.request <;> rfl

theorem entryReturned_done {k : Core} {e : Accepted} {addr : BlockAddr} {len : Fin 8} (request : e.request = .read addr len)
    (data : List Block) : k.entryReturned .host e (.done data) = k.hostReadReturned e.places := by
  unfold Core.entryReturned
  rw [request]

theorem returnReady_single {s : State} {p : Port} {e : Accepted} {r : Returned} (alone : (s.port p).accepted = [e])
    (complete : e.cond = .complete r) : s.returnReady p = s.returnOne p e [] r := by
  unfold State.returnReady
  rw [alone]
  simp only [List.length_singleton, State.returnLoop, alone, complete]

theorem upstreamReceived_host (k : Core) {e : Accepted} (noFetch : e.startsFetch = false) (r : Completion) :
    k.upstreamReceived .host e r = k := by
  unfold Core.upstreamReceived
  dsimp only
  rw [if_neg (by simp [noFetch])]

/-- The entry that a completion makes complete is returned at once when no other stands at its port. -/
theorem completeUpstream_single {s : State} {e : Accepted} (alone : s.host.accepted = [e]) (waits : e.cond = .issued)
    (noFetch : e.startsFetch = false) (r : Completion) :
    (s.completeUpstream .host r).core = s.core.entryReturned .host e (returnedFor e.request r) := by
  have isIssued : e.isIssued = true := by simp [Accepted.isIssued, waits]
  have oldest : (s.port .host).accepted.find? Accepted.isIssued = some e := by simp [State.port, alone, isIssued]
  have completed : completeOldest r (s.port .host).accepted = [{ e with cond := .complete (returnedFor e.request r) }] := by
    simp [State.port, alone, completeOldest, isIssued]
  unfold State.completeUpstream
  dsimp only
  rw [oldest]
  dsimp only
  rw [completed, upstreamReceived_host _ noFetch, returnReady_single (by rw [State.port_setCore, State.port_setPort_self]) rfl]
  rfl

theorem upstreamCompletion_single {s : State} {i : Issued} {rest : List Issued} {e : Accepted} (issued : s.issued = i :: rest)
    (owner : i.owner = .port .host) (fresh : i.discarded = false) (alone : s.host.accepted = [e]) (waits : e.cond = .issued)
    (noFetch : e.startsFetch = false) (r : Completion) :
    ∃ t, exec (.upstreamCompletion r) s = .next t ∧ t.core = s.core.entryReturned .host e (returnedFor e.request r) := by
  refine ⟨(s.receive r).present, rfl, ?_⟩
  rw [State.present_core]
  unfold State.receive State.completeFor
  rw [issued]
  dsimp only
  rw [fresh, owner]
  exact completeUpstream_single (s := s.setIssued rest) alone waits noFetch r

end Sys2Proof.Machine

open Sys2Proof Sys2Proof.Machine

/-- Settles O37: a DONE read returned to the host is tested against the holds and against the record ring, a FAILED one
against neither. -/
theorem hostReadReleasesAndDrains : Obligations.HostReadReleasesAndDrains := by
  intro lines s i rest e addr len issued owner fresh alone waits request noFetch inRing room
  have returned := upstreamCompletion_single issued owner fresh alone waits noFetch
  constructor
  · obtain ⟨t, ht, core⟩ := returned .failed
    exact ⟨t, ht, core.trans (entryReturned_failed ..)⟩
  · obtain ⟨t, ht, core⟩ := returned (.done lines)
    have read := core.trans (entryReturned_done request _)
    obtain ⟨holds, streams, group, check⟩ := hostReadReturned_beside s.core e.places
    obtain ⟨k, bound, drained, covered, stops⟩ := hostReadReturned_drained e.places inRing room
    refine ⟨t, ht, ?_⟩
    rw [read]
    exact ⟨fun h => (holds h).trans (readRelease_hold ..),
      ⟨k, bound, drained.occupancy, drained.drain, covered, stops⟩, drained.produce, drained.resumes, streams, group, check⟩

end

section
/-! The write that freezes a COUNTING ring (R79, R102, R105): the freeze in stage 3, and what stage 4 leaves of it. -/

namespace Sys2Proof.Machine

/-! ### What stands of a freeze -/

/-- What a freeze has brought about stands: rings that are not COUNTING keep freeze state and point, frozen flags, the unplaced
FREEZE record and pending causes stay, and once no ring is COUNTING so do the run state and the pressure ring's freeze. -/
structure Core.FreezeStands (k k' : Core) : Prop where
  rings    : ∀ c, (k.freezeOf c).state ≠ .counting → k'.freezeOf c = k.freezeOf c
  ended    : ¬k.Counting → k'.unit.run = k.unit.run ∧ k'.guard.pFreeze = k.guard.pFreeze
  flags    : ∀ c, (k.tracker c).frozen = true → (k'.tracker c).frozen = true
  pressure : k.streams.pressure.frozen = true → k'.streams.pressure.frozen = true
  record   : k.writer.unplacedFreeze = true → k'.writer.unplacedFreeze = true
  pending  : ∃ x, k'.unit.pending = k.unit.pending ||| x

theorem Core.FreezeStands.refl (k : Core) : k.FreezeStands k :=
  ⟨fun _ _ => rfl, fun _ => ⟨rfl, rfl⟩, fun _ => id, id, id, or_self_ex _⟩

theorem Core.FreezeStands.counting {k k' : Core} (h : k.FreezeStands k') (none : ¬k.Counting) : ¬k'.Counting := by
  rintro ⟨c, counting⟩
  have idle : (k.freezeOf c).state ≠ .counting := fun e => none ⟨c, e⟩
  rw [h.rings c idle] at counting
  exact idle counting

theorem Core.FreezeStands.trans {a b c : Core} (h : a.FreezeStands b) (g : b.FreezeStands c) : a.FreezeStands c where
  rings j idle := by
    have same := h.rings j idle
    exact (g.rings j (same ▸ idle)).trans same
  ended none := by
    obtain ⟨run, pFreeze⟩ := h.ended none
    obtain ⟨run', pFreeze'⟩ := g.ended (h.counting none)
    exact ⟨run'.trans run, pFreeze'.trans pFreeze⟩
  flags j e := g.flags j (h.flags j e)
  pressure e := g.pressure (h.pressure e)
  record e := g.record (h.record e)
  pending := by
    obtain ⟨x, hx⟩ := h.pending
    obtain ⟨y, hy⟩ := g.pending
    exact ⟨x ||| y, by rw [hy, hx, BitVec.or_assoc]⟩

/-- A stage that neither gives nor takes a freeze state and leaves the run state. -/
theorem Core.FreezeStands.of_tested {k k' : Core} (h : k.Tested k') (guard : k'.guard = k.guard)
    (run : k'.unit.run = k.unit.run) : k.FreezeStands k' where
  rings c _ := congrArg (fun g : Guard => look g.freeze c) guard
  ended _ := ⟨run, congrArg Guard.pFreeze guard⟩
  flags := h.frozen
  pressure := h.pfrozen
  record := h.freeze
  pending := h.pending

/-! ### Stage 4 -/

theorem freezeTested_freezeOf (k : Core) (c j : Chan) (st : FreezeState) :
    (k.freezeRing c st).allFrozenTest.freezeOf j = if c = j then { state := st, point := k.lastForwarded c } else k.freezeOf j :=
  (allFrozenTest_keeps (fun k => k.freezeOf j) (fun _ _ => rfl) (fun _ _ => rfl) (fun _ _ => rfl) (fun _ _ => rfl) _).trans
    (Core.freezeOf_setFreeze ..)

theorem freezeAtOnce_stands (k : Core) (c : Chan) (st : FreezeState) : k.FreezeStands (k.freezeAtOnce c st) := by
  have h := grows_freezeAtOnce k c st
  refine ⟨fun j idle => ?_, fun none => ?_, h.frozen, h.pfrozen, h.freeze, h.pending⟩
  · unfold Core.freezeAtOnce
    split
    · rename_i counting
      rw [freezeTested_freezeOf, if_neg (by rintro rfl; exact idle counting)]
    · rfl
  · unfold Core.freezeAtOnce
    rw [if_neg fun counting => none ⟨c, counting⟩]
    exact ⟨rfl, rfl⟩

theorem raiseFault_stands (k : Core) (i : FaultInfo) : k.FreezeStands (k.raiseFault i) := by
  refine .of_tested (tested_raiseFault k i) ?_ ?_ <;> rw [raiseFault_eq]

theorem setStalled_stands (k : Core) (c : Chan) (b : Bool) : k.FreezeStands (k.setStalled c b).markDirty :=
  .of_tested ((tested_setStalled k c b).trans (.of_grows (grows_markDirty _) rfl)) rfl rfl

theorem markStalled_stands (k : Core) (c : Chan) : k.FreezeStands (k.markStalled c) := by
  unfold Core.markStalled
  split
  · exact ⟨fun _ _ => rfl, fun _ => ⟨rfl, rfl⟩, fun _ => id, id, id, or_self_ex _⟩
  · exact .refl k

theorem stallTest_stands (k : Core) (c : Chan) : k.FreezeStands (k.stallTest c) := by
  have stalled : k.FreezeStands (k.stallChannel c) :=
    (((setStalled_stands k c true).trans (raiseFault_stands ..)).trans (markStalled_stands _ c)).trans (freezeAtOnce_stands ..)
  unfold Core.stallTest
  dsimp only
  split
  · split
    · split
      · exact setStalled_stands k c false
      · exact .refl k
    · split
      · exact stalled
      · exact .refl k
  · exact .refl k

theorem stallTests_stands (k : Core) : k.FreezeStands k.stallTests :=
  forChans_rel .refl (fun _ _ _ h => h.trans (stallTest_stands _ _)) k

/-- With no check running, a recomputed horizon is handed on to sorter and grouper alone (R19). -/
theorem recomputeHorizon_idle {k : Core} (idle : k.check.state = .idle) (found : Bool) :
    (k.recomputeHorizon found).besideEvents = (k.setHorizon k.newHorizon).besideEvents := by
  have passed : ∀ x : Core, x.check.state = .idle → x.windowPassed = false := fun x hx => by
    unfold Core.windowPassed
    rw [hx]
  have taken := Core.takeArrivals_besideEvents (k.setHorizon k.newHorizon)
  have after : (k.setHorizon k.newHorizon).takeArrivals.check.state = .idle :=
    (read_of_view taken fun k => k.check.state).trans idle
  unfold Core.recomputeHorizon Core.handOnHorizon Core.finishIfPassed
  dsimp only
  rw [passed (k.setHorizon k.newHorizon) idle, passed _ after]
  split
  · exact taken
  · split <;> rfl

theorem recomputeHorizon_stands {k : Core} (idle : k.check.state = .idle) (found : Bool) :
    k.FreezeStands (k.recomputeHorizon found) := by
  have grown := recomputeHorizon_grows k found
  have beside := recomputeHorizon_idle idle found
  exact ⟨fun c _ => read_of_view beside fun k => k.freezeOf c,
    fun _ => ⟨read_of_view beside fun k => k.unit.run, read_of_view beside fun k => k.guard.pFreeze⟩,
    grown.frozen, grown.pfrozen, grown.freeze, grown.pending⟩

theorem setCount_stands (k : Core) (c : Chan) (m : Nat) : k.FreezeStands (k.setCount c m) := by
  refine ⟨fun _ _ => rfl, fun _ => ⟨rfl, rfl⟩, fun j frozen => ?_, id, id, or_self_ex _⟩
  unfold Core.setCount
  rw [Core.tracker_setTracker]
  split
  · subst_vars
    exact frozen
  · exact frozen

theorem recomputeLead_stands (k : Core) : k.FreezeStands k.recomputeLead :=
  ⟨fun _ _ => rfl, fun _ => ⟨rfl, rfl⟩, fun _ => id, id, id, or_self_ex _⟩

theorem recordTime_stands {k : Core} (idle : k.check.state = .idle) (c : Chan) (start : Nat) (found : Bool) :
    k.FreezeStands (k.recordTime c start found) := by
  have tested := tested_stallTests (k.setCount c (start / 32 + 1)).recomputeLead
  exact (((setCount_stands k c _).trans (recomputeLead_stands _)).trans (stallTests_stands _)).trans
    (recomputeHorizon_stands (tested.check idle) found)

/-! ### Stage 3 -/

theorem countAbsorbed_eq (k : Core) (c : Chan) (o : Option (Fin 64)) : ∃ hs, k.countAbsorbed c o =
    (k.setTracker c { k.tracker c with absorbed := satInc (k.tracker c).absorbed }).setGuard { k.guard with holds := hs } :=
  countHoldAbsorbed_keeps ..

theorem countAbsorbed_check (k : Core) (c : Chan) (o : Option (Fin 64)) : (k.countAbsorbed c o).check = k.check := by
  obtain ⟨hs, h⟩ := countAbsorbed_eq k c o
  rw [h]
  rfl

theorem countAbsorbed_stands (k : Core) (c : Chan) (o : Option (Fin 64)) : k.FreezeStands (k.countAbsorbed c o) := by
  have grown := grows_countAbsorbed k c o
  obtain ⟨hs, h⟩ := countAbsorbed_eq k c o
  refine ⟨fun _ _ => ?_, fun _ => ⟨?_, ?_⟩, grown.frozen, grown.pfrozen, grown.freeze, grown.pending⟩ <;> rw [h] <;> rfl

theorem guardStage_freezes {k : Core} {c : Chan} {start : Option Nat} (freezes : k.freezesAtWrite c start = true) (n : Nat)
    (absorbs : Bool) (held : Option (Fin 64)) :
    k.guardStage c n absorbs held start = (((k.freezeRing c .atWrite).allFrozenTest).countAbsorbed c held, true) := by
  unfold Core.guardStage
  dsimp only
  rw [freezes, Bool.or_true, if_pos rfl, if_pos rfl]

theorem freezeTested_flag (k : Core) (c : Chan) (st : FreezeState) :
    ((k.freezeRing c st).allFrozenTest.tracker c).frozen = true :=
  (grows_allFrozenTest _).frozen c (congrArg Tracker.frozen (look_put_self ..))

/-- The run is over: every ring is frozen, and the FREEZE record has been handed over (R105). -/
structure Core.RunFrozen (k k' : Core) : Prop where
  run      : k'.unit.run = .frozen
  record   : k'.writer.unplacedFreeze = true
  cause    : k'.unit.pending &&& 16 = 16
  pressure : k.guard.pFreeze.state = .counting →
    k'.guard.pFreeze = { state := .withAcoustic, point := k.guard.pLastFwd } ∧ k'.streams.pressure.frozen = true

theorem handFreezeRecord_unplaced {k : Core} (post : k.monitor.post.isSome = true) (r : FreezeEnd) :
    (k.handFreezeRecord r).writer.unplacedFreeze = true := by
  unfold Core.handFreezeRecord
  split
  · rfl
  · rename_i none
    rw [none] at post
    cases post

theorem allFrozenStep_frozen {k : Core} (post : k.monitor.post.isSome = true) : k.RunFrozen k.allFrozenStep := by
  have handed : ∀ {α : Type} (F : Core → α), (∀ k r, F (k.handFreeze r) = F k) → (∀ k, F (k.raise .frozen) = F k) →
      (∀ k, F (k.setRun .frozen) = F k) →
      F k.allFrozenStep = F (if k.guard.pFreeze.state = .counting then k.freezePressure .withAcoustic else k) :=
    fun F hand raise run => (raise _).trans ((handFreezeRecord_keeps F hand _ _).trans (run _))
  refine ⟨allFrozenStep_run k, ?_, ?_, fun counting => ?_⟩
  · refine handFreezeRecord_unplaced (k := Core.setRun _ .frozen) ?_ .complete
    split <;> exact post
  · rw [allFrozenStep_pending]
    exact raised_pending _ .frozen
  · rw [handed (fun k => k.guard.pFreeze) (fun _ _ => rfl) (fun _ => rfl) fun _ => rfl,
      handed (fun k => k.streams.pressure.frozen) (fun _ _ => rfl) (fun _ => rfl) fun _ => rfl, if_pos counting]
    exact ⟨rfl, rfl⟩

/-- A pending cause stays pending when others are added. -/
theorem or_and_of_and {x b : Byte} (h : x &&& b = b) (y : Byte) : (x ||| y) &&& b = b := by
  rw [BitVec.and_or_distrib_right, h]
  ext i
  simp

theorem Core.RunFrozen.stands {k k' k'' : Core} (h : k.RunFrozen k') (s : k'.FreezeStands k'') (none : ¬k'.Counting) :
    k.RunFrozen k'' := by
  obtain ⟨run, pFreeze⟩ := s.ended none
  obtain ⟨x, pending⟩ := s.pending
  refine ⟨run.trans h.run, s.record h.record, ?_, fun counting => ?_⟩
  · rw [pending]
    exact or_and_of_and h.cause x
  · obtain ⟨frozen, flag⟩ := h.pressure counting
    exact ⟨pFreeze.trans frozen, s.pressure flag⟩

/-! ### A write that freezes its ring -/

/-- What the freezing of ring c at a write makes of the state (R79, R102, R105). -/
structure Core.FrozenAtWrite (k k' : Core) (c : Chan) : Prop where
  ring : k'.freezeOf c = { state := .atWrite, point := k.lastForwarded c }
  flag : (k'.tracker c).frozen = true
  last : (∀ j, j ≠ c → (k.freezeOf j).state ≠ .counting) → ¬k'.Counting ∧ k.RunFrozen k'

theorem freezeTested_frozen {k : Core} (post : k.monitor.post.isSome = true) (c : Chan) :
    k.FrozenAtWrite (k.freezeRing c .atWrite).allFrozenTest c := by
  refine ⟨(freezeTested_freezeOf k c c .atWrite).trans (if_pos rfl), freezeTested_flag k c .atWrite, fun others => ?_⟩
  have none : ¬(k.freezeRing c .atWrite).Counting := by
    rintro ⟨j, counting⟩
    have state : (k.freezeRing c .atWrite).freezeOf j = if c = j then { state := .atWrite, point := k.lastForwarded c } else k.freezeOf j :=
      Core.freezeOf_setFreeze ..
    rw [state] at counting
    split at counting
    · cases counting
    · exact others j (Ne.symm ‹_›) counting
  have step : (k.freezeRing c .atWrite).allFrozenTest = (k.freezeRing c .atWrite).allFrozenStep := if_neg (mt (someCounting_iff _).1 none)
  have frozen : (k.freezeRing c .atWrite).RunFrozen _ := allFrozenStep_frozen post
  rw [step]
  refine ⟨?_, frozen.run, frozen.record, frozen.cause, frozen.pressure⟩
  rintro ⟨j, counting⟩
  rw [allFrozenStep_freezeOf] at counting
  exact none ⟨j, counting⟩

theorem Core.FrozenAtWrite.stands {k k' k'' : Core} {c : Chan} (h : k.FrozenAtWrite k' c) (s : k'.FreezeStands k'') :
    k.FrozenAtWrite k'' c := by
  have frozen : (k'.freezeOf c).state ≠ .counting := by rw [h.ring]; nofun
  refine ⟨(s.rings c frozen).trans h.ring, s.flags c h.flag, fun others => ?_⟩
  obtain ⟨none, run⟩ := h.last others
  exact ⟨s.counting none, run.stands s none⟩

theorem Core.FrozenAtWrite.of_guard {k k1 k' : Core} {c : Chan} (h : k1.FrozenAtWrite k' c)
    (guard : k1.guard.withoutHolds = k.guard.withoutHolds) : k.FrozenAtWrite k' c := by
  have ring : ∀ j, k1.freezeOf j = k.freezeOf j := fun j => via (fun g : Guard => look g.freeze j) guard rfl rfl
  have last : k1.lastForwarded c = k.lastForwarded c := via (fun g : Guard => look g.lastFwd c) guard rfl rfl
  have pFreeze : k1.guard.pFreeze = k.guard.pFreeze := via Guard.pFreeze guard rfl rfl
  have pLastFwd : k1.guard.pLastFwd = k.guard.pLastFwd := via Guard.pLastFwd guard rfl rfl
  refine ⟨last ▸ h.ring, h.flag, fun others => ?_⟩
  obtain ⟨none, run, record, cause, pressure⟩ := h.last fun j hj => (ring j).symm ▸ others j hj
  rw [pFreeze, pLastFwd] at pressure
  exact ⟨none, run, record, cause, pressure⟩

/-- With no check running, stages 1 and 2 of a placed write leave the guard but its holds, the monitor and the check unit. -/
theorem Core.Placed.heard {k k1 : Core} {c : Chan} {n gap : Nat} (P : k.Placed k1 c n gap) (idle : k.check.state = .idle)
    (start : Nat) (b : Block) :
    (k1.takeBlock c n start b).guard.withoutHolds = k.guard.withoutHolds ∧ (k1.takeBlock c n start b).monitor = k.monitor ∧
      (k1.takeBlock c n start b).check = k.check := by
  have check : k1.check = k.check := read_of_view P.beside Core.check
  have calm := calm_takeBlock k1 c n start b (by rw [check]; exact idle)
  exact ⟨(read_of_view calm fun k => k.guard.withoutHolds).trans (read_of_view P.beside fun k => k.guard.withoutHolds),
    (read_of_view calm Core.monitor).trans (read_of_view P.beside Core.monitor), (read_of_view calm Core.check).trans check⟩

theorem freezesAtWrite_of_reached {k : Core} {c : Chan} {p : PostTrigger} {start : Nat} (post : k.monitor.post = some p)
    (counting : (k.freezeOf c).state = .counting) (reached : p.freezeTime ≤ start) : k.freezesAtWrite c (some start) = true := by
  unfold Core.freezesAtWrite
  rw [post]
  simp [counting, reached]

theorem acousticWrite_freezes {k : Core} {c : Chan} {n gap : Nat} {w : BlockWrite} {p : PostTrigger}
    (full : w.mask = BitVec.allOnes 64) (h : k.PlacedAt c n gap) (idle : k.check.state = .idle) (post : k.monitor.post = some p)
    (counting : (k.freezeOf c).state = .counting) (reached : p.freezeTime ≤ 32 * ((k.tracker c).count + gap)) :
    (k.acousticWrite c n w).2 = true ∧ k.FrozenAtWrite (k.acousticWrite c n w).1 c := by
  obtain ⟨k1, placed, P⟩ := position_spec k c n gap h
  have mask : (w.mask == fullMask) = true := beq_iff_eq.2 full
  rw [← mask] at placed
  obtain ⟨guard, monitor, check⟩ := P.heard idle (32 * ((k.tracker c).count + gap)) w.data
  generalize heard : k1.takeBlock c n (32 * ((k.tracker c).count + gap)) w.data = k2 at guard monitor check
  have ring : k2.freezeOf c = k.freezeOf c := via (fun g : Guard => look g.freeze c) guard rfl rfl
  have freezes := freezesAtWrite_of_reached (monitor ▸ post) (ring ▸ counting) reached
  have frozen : k.FrozenAtWrite _ c := (freezeTested_frozen (by rw [monitor, post]; rfl) c).of_guard guard
  have counted := countAbsorbed_stands (k2.freezeRing c .atWrite).allFrozenTest c (k.holdAt c n)
  rw [acousticWrite_stages placed (heard ▸ guardStage_freezes freezes n (k.absorbsAcoustic c n) (k.holdAt c n)), heard]
  refine ⟨rfl, frozen.stands (counted.trans (recordTime_stands ?_ ..))⟩
  rw [countAbsorbed_check, allFrozenTest_check]
  exact check ▸ idle

end Sys2Proof.Machine

open Sys2Proof Sys2Proof.Machine

/-- Settles O23: stage 3 freezes the ring and, when it was the last, the run; stage 4 leaves that as it is. -/
theorem freezingWriteFreezes : Obligations.FreezingWriteFreezes := by
  intro w s c n gap p ready place full placedAt idle post counting reached
  obtain ⟨t, ht, taken, core⟩ := acousticRingWrite_taken ready place
  obtain ⟨absorbed, frozen⟩ := acousticWrite_freezes full placedAt idle post counting reached
  obtain ⟨k1, k3, _, P, D, F, decided⟩ := acousticWrite_followed full placedAt
  rw [absorbed] at taken decided
  subst decided
  rw [← core] at frozen F
  have own := placed_pos P D F c
  rw [if_pos rfl] at own
  refine ⟨t, ht, taken, frozen.ring, frozen.flag, placed_lastForwarded P D F c, congrArg (fun p : Pos => p.2.2.2) own,
    fun others => ?_⟩
  obtain ⟨-, run, record, cause, pressure⟩ := frozen.last others
  exact ⟨run, record, cause, pressure⟩

end

section
/-! The pressure write that freezes its ring at the freeze number (R12, R80, R91, R104, R106). -/

namespace Sys2Proof.Machine

/-! ### The placing of a pressure write (R12) -/

/-- The pressure tracker after a placed write at ring index n, `gap` missing blocks before it. -/
def Core.pressurePassed (k : Core) (n gap : Nat) : PressureTracker :=
  { k.streams.pressure with
    state := .tracking
    origin := if k.streams.pressure.state = .waiting then some n else k.streams.pressure.origin
    expected := (n + 1) % k.pressureEntry.size
    count := k.streams.pressure.count + gap + 1 }

/-- A placed pressure write moves the pressure tracker; beside it a skip reaches the record writer and the pending causes
alone. -/
structure Core.PressurePlaced (k k1 : Core) (n gap : Nat) : Prop where
  streams : k1.streams = { k.streams with pressure := k.pressurePassed n gap }
  beside  : k1.besideWriter = (k.setStreams k1.streams).besideWriter

/-- A fault of the pressure ring counts in no tracker. -/
theorem pressureFault_beside (k : Core) (kind : FaultKind) (n : Nat) (d : Option Nat) :
    (k.pressureFault kind n d).streams = k.streams ∧ (k.pressureFault kind n d).besideWriter = k.besideWriter ∧
      (k.pressureFault kind n d).pressureEntry = k.pressureEntry := by
  unfold Core.pressureFault
  dsimp only
  rw [raiseFault_eq]
  exact ⟨rfl, rfl, rfl⟩

theorem passPressure_placed {k k1 : Core} {n gap number : Nat} (streams : k1.streams = k.streams)
    (beside : k1.besideWriter = k.besideWriter) (entry : k1.pressureEntry = k.pressureEntry)
    (tracking : k.streams.pressure.state = .tracking) (reached : number = k.streams.pressure.count + gap) :
    k.PressurePlaced (k1.passPressure n number) n gap := by
  subst reached
  refine ⟨?_, read_of_view beside fun x => (x.setStreams (k1.passPressure n _).streams).besideWriter⟩
  unfold Core.passPressure Core.setPressureTracker Core.pressurePassed
  rw [streams, entry, if_neg (by rw [tracking]; nofun), ← tracking]
  rfl

theorem pressurePosition_spec {k : Core} {n gap : Nat} (h : k.PressurePlacedAt n gap) :
    ∃ k1, k.pressurePosition n true = (k1, some (k.streams.pressure.count + gap)) ∧ k.PressurePlaced k1 n gap := by
  unfold Core.pressurePosition positionOf
  dsimp only
  cases state : k.streams.pressure.state with
  | idle => exact absurd state h.runs
  | waiting =>
    obtain ⟨rfl, start⟩ := h.waiting state
    rw [start]
    refine ⟨_, rfl, ?_, rfl⟩
    unfold Core.passPressure Core.setPressureTracker Core.pressurePassed
    rw [state, if_pos rfl, start]
    rfl
  | tracking =>
    obtain ⟨place, near, below⟩ := h.tracking state
    dsimp only
    unfold trackPosition distance
    dsimp only
    rw [if_pos rfl, if_neg (by unfold maxPressureCount; omega), ← place]
    by_cases none : gap = 0
    · rw [if_pos none, none]
      exact ⟨_, rfl, passPressure_placed rfl rfl rfl state rfl⟩
    · obtain ⟨streams, beside, entry⟩ := pressureFault_beside k .skip n (some gap)
      rw [if_neg none, if_pos (near.resolve_left none)]
      unfold Core.takePressureSkip
      dsimp only
      rw [if_neg (by unfold maxPressureCount; omega)]
      exact ⟨_, rfl, passPressure_placed streams beside entry state rfl⟩

/-! ### Steps 3 to 5 of the monitor in POST_TRIGGER (R93, R96, R97, R106) -/

/-- What the phase and an extra trigger leave: they reach neither the guard nor a stream, neither the FIFO nor the freeze
number. -/
structure Core.MonitorKept (k k' : Core) : Prop where
  guard   : k'.guard = k.guard
  streams : k'.streams = k.streams
  run     : k'.unit.run = k.unit.run
  fifo    : k'.monitor.fifo = k.monitor.fifo
  number  : k'.monitor.post.map PostTrigger.freezeNumber = k.monitor.post.map PostTrigger.freezeNumber

theorem Core.MonitorKept.trans {a b c : Core} (h : a.MonitorKept b) (g : b.MonitorKept c) : a.MonitorKept c :=
  ⟨g.guard.trans h.guard, g.streams.trans h.streams, g.run.trans h.run, g.fifo.trans h.fifo, g.number.trans h.number⟩

theorem handSheddable_kept (k : Core) (r : Record) : k.MonitorKept (k.handSheddable r) := by
  have beside := Core.handSheddable_besideWriter k r
  exact ⟨read_of_view beside Core.guard, read_of_view beside Core.streams, read_of_view beside fun k => k.unit.run,
    read_of_view beside fun k => k.monitor.fifo, read_of_view beside fun k => k.monitor.post.map PostTrigger.freezeNumber⟩

theorem evaluatePhase_kept (k : Core) (number : Nat) : k.MonitorKept (k.evaluatePhase number) := by
  unfold Core.evaluatePhase
  dsimp only
  split
  · exact ⟨rfl, rfl, rfl, rfl, rfl⟩
  · refine Core.MonitorKept.trans ?_ (handSheddable_kept ..)
    exact ⟨rfl, rfl, rfl, rfl, rfl⟩

theorem extraTrigger_kept (k : Core) : k.MonitorKept k.extraTrigger := by
  unfold Core.extraTrigger
  split
  · rename_i p post
    exact ⟨rfl, rfl, rfl, rfl, by rw [post]; rfl⟩
  · exact ⟨rfl, rfl, rfl, rfl, rfl⟩

theorem dispatchTrigger_of_postTrigger {k : Core} (run : k.unit.run = .postTrigger) (src : TriggerSource) :
    (k.dispatchTrigger src).1 = k.extraTrigger := by
  unfold Core.dispatchTrigger
  rw [run]

theorem triggerTest_kept {k : Core} (run : k.unit.run = .postTrigger) : k.MonitorKept k.triggerTest := by
  unfold Core.triggerTest
  split
  · have spent : k.MonitorKept (k.setMonitor { k.monitor with arming := .spent }) := ⟨rfl, rfl, rfl, rfl, rfl⟩
    rw [dispatchTrigger_of_postTrigger (k := k.setMonitor { k.monitor with arming := .spent }) run]
    exact spent.trans (extraTrigger_kept _)
  · exact ⟨rfl, rfl, rfl, rfl, rfl⟩

/-! ### The monitor at the freeze number (R91, R104) -/

theorem arm_post (m : Monitor) (level : Nat) : (m.arm level).post = m.post := by
  unfold Monitor.arm
  split
  · split <;> rfl
  all_goals rfl

theorem pressureMean_eq (b : Block) : pressureMean b = ((List.range 32).map fun i => (sampleAt b i).toNat).sum / 32 := by
  unfold pressureMean samplesOf
  rw [List.map_map]
  rfl

/-- The mean of the block is the newest in the FIFO. -/
theorem enterMean_getLast (m : Monitor) (tolerance x : Nat) : (m.enterMean tolerance x).fifo.getLast? = some x :=
  List.getLast?_concat

theorem freezesAtCount_iff (k : Core) (number : Nat) : k.freezesAtCount number = true ↔
    k.guard.pFreeze.state = .counting ∧ ∃ f, k.monitor.post.map PostTrigger.freezeNumber = some f ∧ f ≤ number := by
  unfold Core.freezesAtCount
  cases k.monitor.post <;> simp

/-- The ring freezes at its count: the state that stands before the freeze differs from k in the monitor alone. -/
theorem takePressureBlock_freezes {k : Core} {p : PostTrigger} {number : Nat} (run : k.unit.run = .postTrigger)
    (post : k.monitor.post = some p) (counting : k.guard.pFreeze.state = .counting) (reached : p.freezeNumber ≤ number)
    (data : Block) :
    ∃ k2 : Core, k.takePressureBlock number data = (k2.freezePressure .atCount, true) ∧ k2.guard = k.guard ∧
      k2.streams = k.streams ∧ k2.unit.run = .postTrigger ∧ k2.monitor.fifo.getLast? = some (pressureMean data) := by
  have kept := (evaluatePhase_kept (k.setMonitor ((k.monitor.enterMean k.global.belowPeakTol (pressureMean data)).arm
    k.global.armLevel)) number)
  have tested := kept.trans (triggerTest_kept (kept.run.trans run))
  have freezes : Core.freezesAtCount _ number = true := (freezesAtCount_iff _ _).2
    ⟨(congrArg (fun g : Guard => g.pFreeze.state) tested.guard).trans counting, p.freezeNumber,
      tested.number.trans ((congrArg _ (arm_post ..)).trans (congrArg _ post)), reached⟩
  refine ⟨_, if_pos freezes, tested.guard, tested.streams, tested.run.trans run, ?_⟩
  rw [tested.fifo]
  exact (congrArg List.getLast? (arm_fifo ..)).trans (enterMean_getLast ..)

/-- A pressure write that reaches the freeze number, the ring COUNTING (R80, R104). -/
theorem pressureWrite_freezes {k : Core} {n gap : Nat} {w : BlockWrite} {p : PostTrigger}
    (full : w.mask = BitVec.allOnes 64) (h : k.PressurePlacedAt n gap) (run : k.unit.run = .postTrigger)
    (post : k.monitor.post = some p) (counting : k.guard.pFreeze.state = .counting)
    (reached : p.freezeNumber ≤ k.streams.pressure.count + gap) :
    ∃ k2 : Core, k.pressureWrite n w = (k2.freezePressure .atCount, true) ∧ k2.guard = k.guard ∧
      k2.streams = { k.streams with pressure := k.pressurePassed n gap } ∧ k2.unit.run = .postTrigger ∧
      k2.monitor.fifo.getLast? = some (pressureMean w.data) := by
  obtain ⟨k1, placed, P⟩ := pressurePosition_spec h
  have mask : (w.mask == fullMask) = true := beq_iff_eq.2 full
  have guard : k1.guard = k.guard := read_of_view P.beside Core.guard
  have monitor : k1.monitor = k.monitor := read_of_view P.beside Core.monitor
  have running : k1.unit.run = k.unit.run := read_of_view P.beside fun k => k.unit.run
  obtain ⟨k2, frozen, guard2, streams2, run2, mean⟩ := takePressureBlock_freezes (running.trans run)
    (monitor ▸ post) (guard ▸ counting) reached w.data
  refine ⟨k2, ?_, guard2.trans guard, streams2.trans P.streams, run2, mean⟩
  simp only [Core.pressureWrite, mask, placed, Core.monitorStage, frozen, Bool.or_true, if_pos]

end Sys2Proof.Machine

open Sys2Proof Sys2Proof.Machine

/-- Settles O26: in POST_TRIGGER a trigger only counts as extra, so the freeze number stands and the monitor freezes the ring. -/
theorem pressureFreezesAtCount : Obligations.PressureFreezesAtCount := by
  intro w s n gap p ready place full placedAt run post counting reached
  obtain ⟨t, ht, taken, core⟩ := pressureRingWrite_taken ready place
  obtain ⟨k2, frozen, guard, streams, running, mean⟩ := pressureWrite_freezes full placedAt run post counting reached
  rw [frozen] at taken core
  have guarded : t.core.guard = { s.core.guard with pFreeze := { state := .atCount, point := s.core.guard.pLastFwd } } := by
    rw [core, ← guard]
    rfl
  have counted : t.core.streams.pressure.count = s.core.streams.pressure.count + gap + 1 := by
    rw [core]
    exact congrArg (fun s : Streams => s.pressure.count) streams
  refine ⟨t, ht, taken, by rw [guarded], ?_, by rw [guarded], counted, ?_, ?_, fun c => ?_⟩
  · rw [core]
    rfl
  · rw [core]
    exact mean.trans (congrArg some (pressureMean_eq _))
  · rw [core]
    exact running
  · exact (congrArg (fun g : Guard => look g.freeze c) guarded).trans rfl

end

section
/-! Where a TRIGGER goes (R98, R99, R106, R108), and THAW (R109, R188). -/

namespace Sys2Proof.Machine

/-! ### A trigger taken, and an extra trigger (R99, R106) -/

theorem extraTrigger_of_post {k : Core} {p : PostTrigger} (post : k.monitor.post = some p) :
    k.extraTrigger = k.setMonitor { k.monitor with post := some { p with extra := satInc p.extra } } := by
  unfold Core.extraTrigger
  rw [post]

theorem extraCount_of_post {k : Core} {p : PostTrigger} (post : k.monitor.post = some p) : k.extraCount = p.extra := by
  unfold Core.extraCount
  rw [post]

/-- The extra count is that of the context as the trigger leaves it. -/
theorem dispatchTrigger_afterTrigger {k : Core} (run : k.unit.run = .postTrigger ∨ k.unit.run = .frozen) (src : TriggerSource) :
    k.dispatchTrigger src = (k.extraTrigger, .extra, k.extraTrigger.extraCount) := by
  unfold Core.dispatchTrigger
  rcases run with run | run <;> rw [run]

/-- In LISTENING with no check running the trigger is taken. -/
theorem dispatchTrigger_takes {k : Core} (run : k.unit.run = .listening) (idle : k.check.state = .idle) (src : TriggerSource) :
    k.dispatchTrigger src =
      (k.takeTrigger { source := src, extra := 0, queued := false, checkAbandoned := false }, .taken, 0) := by
  unfold Core.dispatchTrigger Core.checkRuns
  rw [run, idle]
  rfl

theorem takeTriggerCommand_dispatches {k : Core} (run : k.unit.run ≠ .stopped) (b : Block) :
    k.takeTriggerCommand b = (k.dispatchTrigger .command).1.answer b .done
      (.trigger (k.dispatchTrigger .command).2.1 (k.dispatchTrigger .command).2.2) :=
  if_neg run

theorem takeTriggerCommand_extra {k : Core} {p : PostTrigger} (run : k.unit.run = .postTrigger ∨ k.unit.run = .frozen)
    (post : k.monitor.post = some p) (b : Block) :
    k.takeTriggerCommand b = (k.setMonitor { k.monitor with post := some { p with extra := satInc p.extra } }).answer b .done
      (.trigger .extra (satInc p.extra)) := by
  have running : k.unit.run ≠ .stopped := by rcases run with run | run <;> rw [run] <;> nofun
  rw [takeTriggerCommand_dispatches running, dispatchTrigger_afterTrigger run, extraTrigger_of_post post]
  rfl

/-! ### The end of a check that a trigger abandons (R108) -/

/-- Detectors leave CHECK alike whatever trigger is queued. -/
theorem leaveChecks_setQueuedTrigger (k : Core) (q : Option QueuedTrigger) :
    forChans Core.leaveCheck (k.setQueuedTrigger q) = (forChans Core.leaveCheck k).setQueuedTrigger q := by
  have one : ∀ (k : Core) c, (k.setQueuedTrigger q).leaveCheck c = (k.leaveCheck c).setQueuedTrigger q := by
    intro k c
    unfold Core.leaveCheck
    rw [show (k.setQueuedTrigger q).detector c = k.detector c from rfl]
    split <;> rfl
  unfold forChans
  generalize allChans = cs
  exact List.foldl_hom (fun k : Core => k.setQueuedTrigger q) (fun k c => one k c)

/-- The state in which a trigger is taken that ends a running check. -/
def Core.checkAbandoned (k : Core) : Core :=
  (forChans Core.leaveCheck (k.endCheck .abandoned (some .trigger) k.check.queued.isSome)).setQueuedTrigger none

/-- The trigger taken then: the queued one with its source and count, else the one dispatched (R108). -/
def Core.takingInCheck (k : Core) (src : TriggerSource) : TriggerTaking :=
  { source := (k.check.queued.map QueuedTrigger.source).getD src
    extra := (k.check.queued.map QueuedTrigger.extra).getD 0
    queued := k.check.queued.isSome
    checkAbandoned := true }

theorem abandonByTrigger_fresh {k : Core} (queued : k.check.queued = none) (src : TriggerSource) :
    k.abandonByTrigger src = (k.checkAbandoned.takeTrigger (k.takingInCheck src), .taken, 0) := by
  unfold Core.abandonByTrigger Core.checkAbandoned Core.takingInCheck
  dsimp only
  rw [leaveChecks_setQueuedTrigger, queued]
  rfl

theorem abandonByTrigger_queued {k : Core} {q : QueuedTrigger} (queued : k.check.queued = some q) (src : TriggerSource) :
    k.abandonByTrigger src = ((k.checkAbandoned.takeTrigger (k.takingInCheck src)).extraTrigger, .extra,
      (k.checkAbandoned.takeTrigger (k.takingInCheck src)).extraTrigger.extraCount) := by
  unfold Core.abandonByTrigger Core.checkAbandoned Core.takingInCheck
  dsimp only
  rw [leaveChecks_setQueuedTrigger, queued]
  rfl

/-- What the end of the check leaves and brings before the trigger is taken (R126, R127). -/
structure Core.CheckAbandoned (k k' : Core) : Prop where
  streams   : k'.streams = k.streams
  guard     : k'.guard = k.guard
  monitor   : k'.monitor = k.monitor
  group     : k'.group = k.group
  nextHit   : k'.hits.nextHit = k.hits.nextHit
  settings  : k'.unit.settings = k.unit.settings
  due       : k'.unit.due = k.unit.due
  check     : k'.check = { k.check with state := .idle, queued := none }
  writer    : k'.writer = { k.writer with
    queue := k.writer.queue ++ [.check (k.checkRecord .abandoned (some .trigger) k.check.queued.isSome)]
    unplacedCheck := true }
  pending   : k'.unit.pending = k.unit.pending ||| Cause.bit .check
  detectors : ∀ j, k'.detector j = k.detectorAfterCheck j

theorem checkAbandoned_spec (k : Core) : k.CheckAbandoned k.checkAbandoned := by
  have closed := endCheck_closed k (reason := .abandoned) nofun (some .trigger) k.check.queued.isSome
  have beside := leaveChecks_beside (k.endCheck .abandoned (some .trigger) k.check.queued.isSome)
  have ended := endCheck_ended k .abandoned (some .trigger) k.check.queued.isSome
  have view := (Core.forChans_view _ Core.leaveCheck_view _).trans
    (k.endCheck_view .abandoned (some .trigger) k.check.queued.isSome)
  obtain ⟨x, left⟩ := leaveChecks_eq (k.endCheck .abandoned (some .trigger) k.check.queued.isSome)
  have guard : (forChans Core.leaveCheck (k.endCheck .abandoned (some .trigger) k.check.queued.isSome)).guard = k.guard := by
    rw [left]
    exact ended.guard
  unfold Core.checkAbandoned
  exact ⟨closed.streams, guard, closed.monitor, closed.group,
    (read_of_view beside fun k => k.hits.nextHit).trans (congrArg Hits.nextHit ended.detectors), Core.view_settings view,
    congrArg (fun v : View => v.unit.due) view, congrArg (fun u : CheckUnit => { u with queued := none }) closed.check,
    closed.writer, closed.pending, closed.detectors⟩

/-! ### THAW (R109) -/

theorem takeThaw_wrongState {k : Core} (run : k.unit.run ≠ .frozen) (b : Block) : k.takeThaw b = k.refuse b .wrongState :=
  if_pos run

theorem takeThaw_pending {k : Core} (run : k.unit.run = .frozen) (unplaced : k.writer.unplacedFreeze = true) (b : Block) :
    k.takeThaw b = k.refuse b .pending :=
  (if_neg (not_not_intro run)).trans (if_pos unplaced)

theorem takeThaw_taken {k : Core} {p : PostTrigger} (run : k.unit.run = .frozen) (placed : k.writer.unplacedFreeze = false)
    (post : k.monitor.post = some p) (b : Block) : k.takeThaw b = k.thaw.answer b .done (.thaw p.extra) := by
  rw [← extraCount_of_post post]
  exact (if_neg (not_not_intro run)).trans (if_neg (by rw [placed]; nofun))

theorem thaw_tracker (k : Core) (c : Chan) : k.thaw.tracker c = { k.tracker c with frozen := false } := look_tabulate _ c

end Sys2Proof.Machine

open Sys2Proof Sys2Proof.Machine

/-- Settles O12: the context of the trigger taken counts one more, and the answer shows the count. -/
theorem extraTriggerCounts : Obligations.ExtraTriggerCounts := by
  intro w s p ready busy kind run post
  obtain ⟨t, ht, page, core⟩ := command_run (i := .trigger w) ready busy kind nofun nofun rfl
  rw [Core.takeReady, kind] at core
  have counted := core.trans (takeTriggerCommand_extra run post (pageData w))
  exact ⟨t, ht, page, counted.trans (answer_eq (k := s.core.setMonitor _) (busy_due busy).2)⟩

/-- Settles O13: the two refusals, and each block as a THAW that is taken leaves it. -/
theorem thawEndsFreeze : Obligations.ThawEndsFreeze := by
  intro w s ready busy kind
  obtain ⟨t, ht, page, core⟩ := command_run (i := .thaw w) ready busy kind nofun nofun rfl
  rw [Core.takeReady, kind] at core
  have due := (busy_due busy).2
  constructor
  · intro r refused
    have answered : t.core = s.core.refuse (pageData w) r := by
      rcases refused with ⟨run, rfl⟩ | ⟨run, unplaced, rfl⟩
      · exact core.trans (takeThaw_wrongState run _)
      · exact core.trans (takeThaw_pending run unplaced _)
    exact ⟨t, ht, page, answered.trans (answer_eq due)⟩
  · intro p run placed post
    replace core := core.trans (takeThaw_taken run placed post (pageData w))
    rw [answer_eq (k := s.core.thaw) due] at core
    refine ⟨t, ht, page, ?_⟩
    rw [core]
    exact ⟨thaw_tracker s.core, rfl, rfl, rfl, thaw_freezeOf s.core, rfl, rfl, rfl, rfl, rfl, rfl, rfl, rfl, rfl, rfl⟩

end

section
/-! A placed pressure write (R12, R80, R91 to R97, R101): its mean, the trigger test, and the write that freezes its ring. -/

namespace Sys2Proof.Machine

/-! ### A trigger does not freeze the pressure ring at the write that brings it (R100, R104) -/

theorem takeTrigger_freezesAtCount {k : Core} {number : Nat} (below : number < k.streams.pressure.count) (t : TriggerTaking) :
    (k.takeTrigger t).freezesAtCount number = false := by
  unfold Core.freezesAtCount
  rw [(takeTrigger_spec k t).2]
  have later : ¬k.streams.pressure.count + k.global.postTriggerP ≤ number := by omega
  simp [Core.postContext, later]

theorem extraTrigger_freezesAtCount (k : Core) (number : Nat) :
    k.extraTrigger.freezesAtCount number = k.freezesAtCount number := by
  unfold Core.extraTrigger
  split
  · rename_i p post
    unfold Core.freezesAtCount
    rw [post]
    rfl
  · rfl

/-- Where a trigger makes the ring freeze at a block already counted, the ring was COUNTING before. -/
theorem dispatchTrigger_freezesAtCount {k : Core} {number : Nat} (below : number < k.streams.pressure.count)
    (src : TriggerSource) (freezes : (k.dispatchTrigger src).1.freezesAtCount number = true) : k.freezesAtCount number = true := by
  have abandoned : number < k.checkAbandoned.streams.pressure.count := by
    rw [(checkAbandoned_spec k).streams]
    exact below
  have extra : k.extraTrigger.freezesAtCount number = true → k.freezesAtCount number = true :=
    fun h => (extraTrigger_freezesAtCount k number).symm.trans h
  unfold Core.dispatchTrigger at freezes
  cases run : k.unit.run with
  | listening =>
    rw [run] at freezes
    dsimp only at freezes
    split at freezes
    · split at freezes
      · unfold Core.queueTrigger at freezes
        split at freezes <;> exact freezes
      · cases queued : k.check.queued with
        | none =>
          rw [abandonByTrigger_fresh queued, takeTrigger_freezesAtCount abandoned] at freezes
          cases freezes
        | some q =>
          rw [abandonByTrigger_queued queued, extraTrigger_freezesAtCount, takeTrigger_freezesAtCount abandoned] at freezes
          cases freezes
    · rw [takeTrigger_freezesAtCount below] at freezes
      cases freezes
  | postTrigger | frozen | stopped =>
    rw [run] at freezes
    exact extra freezes

/-! ### Steps 1 to 6 of the monitor (R91) -/

theorem arm_means (m : Monitor) (level : Nat) : (m.arm level).means = m.means := by
  unfold Monitor.arm
  split
  · split <;> rfl
  all_goals rfl

theorem arm_armed {m : Monitor} {level : Nat} (h : m.arming = .armed ∨ (m.arming = .unarmed ∧ level ≤ m.pmax)) :
    m.arm level = { m with arming := .armed } := by
  unfold Monitor.arm
  rcases h with armed | ⟨unarmed, reached⟩
  · have same : { m with arming := .armed } = m := by rw [← armed]
    rw [armed]
    exact same.symm
  · rw [unarmed]
    exact if_pos reached

theorem arm_kept {m : Monitor} {level : Nat} (h : ¬(m.arming = .armed ∨ (m.arming = .unarmed ∧ level ≤ m.pmax))) :
    m.arm level = m := by
  unfold Monitor.arm
  split
  · rename_i unarmed
    exact if_neg fun reached => h (.inr ⟨unarmed, reached⟩)
  all_goals rfl

/-- The evaluation of the phase: the phase, and a PHASE record. -/
theorem evaluatePhase_beside (k : Core) (number : Nat) :
    ∃ phase, (k.evaluatePhase number).besideWriter = (k.setMonitor { k.monitor with phase := phase }).besideWriter := by
  unfold Core.evaluatePhase
  dsimp only
  split
  · exact ⟨k.monitor.phase, rfl⟩
  · exact ⟨_, Core.handSheddable_besideWriter _ _⟩

theorem grows_setPhase (k : Core) (phase : Phase) : k.Grows (k.setMonitor { k.monitor with phase := phase }) :=
  grows_setMonitor k _ rfl

theorem grows_evaluatePhase (k : Core) (number : Nat) : k.Grows (k.evaluatePhase number) := by
  unfold Core.evaluatePhase
  dsimp only
  split
  · exact .refl k
  · refine Core.Grows.trans ?_ (grows_handSheddable ..)
    exact (grows_setPhase k _).trans (grows_markDirty _)

theorem grows_triggerTest (k : Core) : k.Grows k.triggerTest := by
  unfold Core.triggerTest
  split
  · exact (grows_setMonitor k { k.monitor with arming := .spent } rfl).trans (grows_dispatchTrigger _ _)
  · exact .refl k

/-- Steps 5 and 6 of R91: the trigger test, then the freeze at the count. -/
def Core.testMean (k : Core) (number : Nat) : Core × Bool :=
  if k.triggerTest.freezesAtCount number then (k.triggerTest.freezePressure .atCount, true) else (k.triggerTest, false)

theorem takePressureBlock_eq (k : Core) (number : Nat) (data : Block) : k.takePressureBlock number data =
    ((k.setMonitor ((k.monitor.enterMean k.global.belowPeakTol (pressureMean data)).arm k.global.armLevel)).evaluatePhase
      number).testMean number := by
  unfold Core.takePressureBlock Core.testMean
  rfl

theorem grows_testMean (k : Core) (number : Nat) : k.Grows (k.testMean number).1 := by
  unfold Core.testMean
  split
  · exact (grows_triggerTest k).trans (grows_freezePressure _ _)
  · exact grows_triggerTest k

/-- The freeze at the count reaches streams and guard alone. -/
theorem testMean_kept (k : Core) (number : Nat) : (k.testMean number).1.monitor = k.triggerTest.monitor ∧
    (k.testMean number).1.unit = k.triggerTest.unit ∧ (k.testMean number).1.writer = k.triggerTest.writer := by
  unfold Core.testMean
  split <;> exact ⟨rfl, rfl, rfl⟩

/-- A ring that freezes at its count was COUNTING before the trigger test. -/
theorem testMean_freezes {k : Core} {number : Nat} (below : number < k.streams.pressure.count)
    (freezes : (k.testMean number).2 = true) : k.guard.pFreeze.state = .counting := by
  have tested : k.triggerTest.freezesAtCount number = true := by
    unfold Core.testMean at freezes
    split at freezes
    · assumption
    · cases freezes
  refine ((freezesAtCount_iff k number).1 ?_).1
  unfold Core.triggerTest at tested
  split at tested
  · exact dispatchTrigger_freezesAtCount (k := k.setMonitor { k.monitor with arming := .spent }) below .pressure tested
  · exact tested

/-! ### The placing of the write (R12, R13) -/

theorem pressurePosition_settings (k : Core) (n : Nat) (full : Bool) :
    (k.pressurePosition n full).1.unit.settings = k.unit.settings := by
  have fault : ∀ kind d, (k.pressureFault kind n d).unit.settings = k.unit.settings :=
    fun _ _ => Core.view_settings (Core.raiseFault_view ..)
  unfold Core.pressurePosition Core.takePressureSkip
  dsimp only
  split
  · rfl
  · exact fault ..
  · rfl
  · rfl
  · rfl
  · split <;> exact fault ..
  · exact fault ..

/-- A gap before the write is a SKIP fault. -/
theorem pressurePosition_fault {k : Core} {n gap : Nat} (h : k.PressurePlacedAt n gap) (skips : 0 < gap) :
    (k.pressurePosition n true).1.unit.pending &&& 64 = 64 := by
  have fault : (k.pressureFault .skip n (some gap)).unit.pending &&& 64 = 64 := by
    unfold Core.pressureFault
    dsimp only
    rw [raiseFault_eq]
    exact raised_pending _ .fault
  unfold Core.pressurePosition positionOf
  dsimp only
  cases state : k.streams.pressure.state with
  | idle => exact absurd state h.runs
  | waiting => exact absurd (h.waiting state).1 (Nat.ne_of_gt skips)
  | tracking =>
    obtain ⟨place, near, below⟩ := h.tracking state
    have apart : gap ≠ 0 := Nat.ne_of_gt skips
    dsimp only
    unfold trackPosition distance Core.takePressureSkip
    dsimp only
    rw [if_pos rfl, if_neg (by unfold maxPressureCount; omega), ← place, if_neg apart, if_pos (near.resolve_left apart)]
    dsimp only
    split <;> exact fault

/-! ### The write as a whole -/

/-- A placed pressure write up to the trigger test: the tracker has passed it and its mean x has been entered. -/
structure Core.MeanEntered (k e : Core) (n gap x : Nat) : Prop where
  streams  : e.streams = { k.streams with pressure := k.pressurePassed n gap }
  guard    : e.guard = k.guard
  check    : e.check = k.check
  run      : e.unit.run = k.unit.run
  settings : e.unit.settings = k.unit.settings
  monitor  : ∃ phase,
    e.monitor = { (k.monitor.enterMean k.global.belowPeakTol x).arm k.global.armLevel with phase := phase }
  fault    : 0 < gap → e.unit.pending &&& 64 = 64

/-- The state after the guard's decision on a pressure write (R101). -/
def Core.pressureGuarded (k : Core) (n : Nat) (absorbed : Bool) : Core :=
  if absorbed then k else k.setPressureLastForwarded n

theorem global_of_settings {k k' : Core} (h : k'.unit.settings = k.unit.settings) : k'.global = k.global := by
  unfold Core.global
  rw [h]

theorem pressureWrite_placed {k : Core} {n gap : Nat} {w : BlockWrite} (full : w.mask = BitVec.allOnes 64)
    (h : k.PressurePlacedAt n gap) :
    ∃ e absorbed, k.MeanEntered e n gap (pressureMean w.data) ∧
      absorbed = (k.streams.pressure.frozen || (e.testMean (k.streams.pressure.count + gap)).2) ∧
      (k.pressureWrite n w).2 = absorbed ∧
      (k.pressureWrite n w).1 = (e.testMean (k.streams.pressure.count + gap)).1.pressureGuarded n absorbed := by
  obtain ⟨k1, placed, P⟩ := pressurePosition_spec h
  have fault := pressurePosition_fault h
  have settings := pressurePosition_settings k n true
  rw [placed] at fault settings
  have mask : (w.mask == fullMask) = true := beq_iff_eq.2 full
  have monitor : k1.monitor = k.monitor := read_of_view P.beside Core.monitor
  have entered := takePressureBlock_eq k1 (k.streams.pressure.count + gap) w.data
  rw [monitor, global_of_settings settings] at entered
  generalize armed : (k.monitor.enterMean k.global.belowPeakTol (pressureMean w.data)).arm k.global.armLevel = m at entered
  have grown := grows_evaluatePhase (k1.setMonitor m) (k.streams.pressure.count + gap)
  obtain ⟨phase, beside⟩ := evaluatePhase_beside (k1.setMonitor m) (k.streams.pressure.count + gap)
  generalize (k1.setMonitor m).evaluatePhase (k.streams.pressure.count + gap) = e at entered grown beside
  refine ⟨e, _, ⟨(read_of_view beside Core.streams).trans P.streams, ?_, ?_, ?_, ?_, ⟨phase, ?_⟩, ?_⟩, rfl, ?_, ?_⟩
  · exact (read_of_view beside Core.guard).trans (read_of_view P.beside Core.guard)
  · exact (read_of_view beside Core.check).trans (read_of_view P.beside Core.check)
  · exact (read_of_view beside fun k => k.unit.run).trans (read_of_view P.beside fun k => k.unit.run)
  · exact (Core.view_settings grown.view).trans settings
  · rw [armed]
    exact read_of_view beside Core.monitor
  · exact fun skips => grown.bit 64 (fault skips)
  all_goals
    simp only [Core.pressureWrite, mask, placed, Core.monitorStage, entered]
    cases k.streams.pressure.frozen || (e.testMean (k.streams.pressure.count + gap)).2 <;> rfl

/-- The guard's decision reaches the last forwarded index alone. -/
theorem pressureGuarded_kept (k : Core) (n : Nat) (absorbed : Bool) : (k.pressureGuarded n absorbed).monitor = k.monitor ∧
    (k.pressureGuarded n absorbed).unit = k.unit ∧ (k.pressureGuarded n absorbed).writer = k.writer := by
  cases absorbed <;> exact ⟨rfl, rfl, rfl⟩

theorem pressureGuarded_pLastFwd (k : Core) (n : Nat) (absorbed : Bool) :
    (k.pressureGuarded n absorbed).guard.pLastFwd = if absorbed then k.guard.pLastFwd else some n := by
  cases absorbed <;> rfl

/-! ### The trigger test (R96, R97, R99) -/

theorem Core.MeanEntered.means {k e : Core} {n gap x : Nat} (E : k.MeanEntered e n gap x) :
    e.monitor.means = (k.monitor.enterMean k.global.belowPeakTol x).means := by
  obtain ⟨phase, monitor⟩ := E.monitor
  rw [monitor]
  exact arm_means ..

/-- What a placed pressure write with mean x makes of the positions, the means and the rest, whether it is absorbed or not. -/
structure Core.PressureAnalysed (k k' : Core) (n gap x : Nat) : Prop where
  passed   : k'.streams.pressure.pos = (k.pressurePassed n gap).pos
  means    : k'.monitor.means = (k.monitor.enterMean k.global.belowPeakTol x).means
  trackers : ∀ c, (k'.tracker c).pos = (k.tracker c).pos
  lastFwd  : k'.guard.lastFwd = k.guard.lastFwd
  times    : k'.streams.lead = k.streams.lead ∧ k'.streams.horizon = k.streams.horizon
  settings : k'.unit.settings = k.unit.settings
  fault    : 0 < gap → k'.unit.pending &&& 64 = 64

/-- The trigger test and what follows it keep what the write has made of them. -/
theorem Core.MeanEntered.analysed {k e k' : Core} {n gap x : Nat} (E : k.MeanEntered e n gap x) (grown : e.Grows k') :
    k.PressureAnalysed k' n gap x where
  passed := (congrArg View.ppos grown.view).trans (congrArg (fun s : Streams => s.pressure.pos) E.streams)
  means := (congrArg View.means grown.view).trans E.means
  trackers c := (Core.view_pos grown.view c).trans (via (fun s : Streams => (look s.chan c).pos) E.streams rfl rfl)
  lastFwd := (congrArg View.lastFwd grown.view).trans (congrArg Guard.lastFwd E.guard)
  times := ⟨grown.lead.trans (via Streams.lead E.streams rfl rfl), grown.horizon.trans (via Streams.horizon E.streams rfl rfl)⟩
  settings := (Core.view_settings grown.view).trans E.settings
  fault skips := grown.bit 64 (E.fault skips)

theorem Core.PressureAnalysed.guarded {k k' : Core} {n gap x : Nat} (A : k.PressureAnalysed k' n gap x) (absorbed : Bool) :
    k.PressureAnalysed (k'.pressureGuarded n absorbed) n gap x := by
  cases absorbed <;> exact ⟨A.passed, A.means, A.trackers, A.lastFwd, A.times, A.settings, A.fault⟩

/-- The FIFO of 16, P_max and the tolerance once the mean x has been entered (R92, R111). -/
theorem entered_of_means {m m' : Monitor} {tolerance x : Nat} (h : m'.means = (m.enterMean tolerance x).means) :
    m'.fifo.getLast? = some x ∧ m'.pmax = max m.pmax x ∧ m'.peakTol = tolerance ∧
      (m.fifo.length < 16 → m'.fifo = m.fifo ++ [x]) ∧ (16 ≤ m.fifo.length → m'.fifo = m.fifo.drop 1 ++ [x]) := by
  have fifo : m'.fifo = (if m.fifo.length < 16 then m.fifo else m.fifo.drop 1) ++ [x] :=
    congrArg (fun p : List Nat × Nat × Nat => p.1) h
  refine ⟨?_, congrArg (fun p : List Nat × Nat × Nat => p.2.1) h, congrArg (fun p : List Nat × Nat × Nat => p.2.2) h,
    fun short => ?_, fun filled => ?_⟩
  · rw [fifo, List.getLast?_concat]
  · rw [fifo, if_pos short]
  · rw [fifo, if_neg (Nat.not_lt.2 filled)]

/-- Step 3 of R91 arms the monitor: it stands ARMED, or UNARMED with P_max at the arm level. -/
def Core.armsAt (k : Core) (x : Nat) : Prop :=
  k.monitor.arming = .armed ∨ (k.monitor.arming = .unarmed ∧ k.global.armLevel ≤ max k.monitor.pmax x)

theorem Core.MeanEntered.armed {k e : Core} {n gap x : Nat} (E : k.MeanEntered e n gap x) (h : k.armsAt x) :
    e.monitor.arming = .armed := by
  obtain ⟨phase, monitor⟩ := E.monitor
  rw [monitor]
  exact congrArg Monitor.arming (arm_armed (m := k.monitor.enterMean k.global.belowPeakTol x) h)

theorem Core.MeanEntered.notArmed {k e : Core} {n gap x : Nat} (E : k.MeanEntered e n gap x) (h : ¬k.armsAt x) :
    e.monitor.arming = k.monitor.arming := by
  obtain ⟨phase, monitor⟩ := E.monitor
  rw [monitor]
  exact via Monitor.arming (arm_kept (m := k.monitor.enterMean k.global.belowPeakTol x) h) rfl rfl

theorem pressureTriggers_iff (k : Core) : k.pressureTriggers = true ↔
    k.monitor.arming = .armed ∧ k.global.burstDrop ≠ 0 ∧ k.global.burstDrop ≤ k.monitor.pmax - k.monitor.mean := by
  simp [Core.pressureTriggers, and_assoc]

/-- The trigger test reads the mean just entered. -/
theorem Core.MeanEntered.triggers_iff {k e : Core} {n gap x : Nat} (E : k.MeanEntered e n gap x) : e.pressureTriggers = true ↔
    e.monitor.arming = .armed ∧ k.global.burstDrop ≠ 0 ∧ k.global.burstDrop ≤ max k.monitor.pmax x - x := by
  obtain ⟨newest, pmax, -⟩ := entered_of_means E.means
  have mean : e.monitor.mean = x := congrArg (Option.getD · 0) newest
  rw [pressureTriggers_iff, global_of_settings E.settings, pmax, mean]

theorem triggerTest_kept_of_none {k : Core} (h : ¬k.pressureTriggers = true) : k.triggerTest = k := if_neg h

/-- In LISTENING with no check running the pressure trigger is taken. -/
theorem triggerTest_takes {k : Core} (h : k.pressureTriggers = true) (run : k.unit.run = .listening)
    (idle : k.check.state = .idle) :
    k.triggerTest = (k.setMonitor { k.monitor with arming := .spent }).takeTrigger
      { source := .pressure, extra := 0, queued := false, checkAbandoned := false } :=
  (if_pos h).trans (congrArg Prod.fst
    (dispatchTrigger_takes (k := k.setMonitor { k.monitor with arming := .spent }) run idle .pressure))

end Sys2Proof.Machine

open Sys2Proof Sys2Proof.Machine

/-- Settles O24: the tracker passes the write and the monitor takes its mean; what the monitor makes of the mean keeps both. -/
theorem pressureWriteAnalysed : Obligations.PressureWriteAnalysed := by
  intro w s n gap ready place full placedAt
  obtain ⟨t, ht, taken, core⟩ := pressureRingWrite_taken ready place
  obtain ⟨e, absorbed, E, decided, absorbs, written⟩ := pressureWrite_placed full placedAt
  have below : s.core.streams.pressure.count + gap < e.streams.pressure.count := by
    rw [E.streams]
    exact Nat.lt_succ_self _
  have grown := grows_testMean e (s.core.streams.pressure.count + gap)
  have analysed := (E.analysed grown).guarded absorbed
  have kept : (e.testMean (s.core.streams.pressure.count + gap)).1.guard.pLastFwd = s.core.guard.pLastFwd :=
    (congrArg View.pLastFwd grown.view).trans (congrArg Guard.pLastFwd E.guard)
  have pLastFwd := pressureGuarded_pLastFwd (e.testMean (s.core.streams.pressure.count + gap)).1 n absorbed
  rw [kept] at pLastFwd
  rw [← written, ← core] at analysed pLastFwd
  obtain ⟨passed, means, trackers, lastFwd, ⟨lead, horizon⟩, settings, fault⟩ := analysed
  refine ⟨t, absorbed, ht, absorbs ▸ taken, fun frozen => ?_, fun waiting absorbed => ?_, pLastFwd,
    congrArg (fun p : Pos => p.1) passed, congrArg (fun p : Pos => p.2.2.2) passed, congrArg (fun p : Pos => p.2.2.1) passed,
    congrArg (fun p : Pos => p.2.1) passed, ?_, fault, fun c => ⟨congrArg (fun p : Pos => p.2.2.2) (trackers c),
      congrArg (fun p : Pos => p.2.2.1) (trackers c), congrArg (fun v => look v c) lastFwd⟩, lead, horizon, settings⟩
  · rw [decided, frozen, Bool.true_or]
  · rw [decided, Bool.or_eq_true] at absorbed
    exact absorbed.resolve_right fun freezes => waiting (E.guard ▸ testMean_freezes below freezes)
  · rw [← pressureMean_eq]
    exact entered_of_means means

/-- Settles O25: the trigger test reads the arming state and the mean just entered; the freeze at the count comes after it. -/
theorem pressureTriggersOnDrop : Obligations.PressureTriggersOnDrop := by
  intro w s n gap ready place full placedAt run idle
  obtain ⟨t, ht, -, core⟩ := pressureRingWrite_taken ready place
  obtain ⟨e, absorbed, E, -, -, written⟩ := pressureWrite_placed full placedAt
  obtain ⟨monitor, unit, writer⟩ := testMean_kept e (s.core.streams.pressure.count + gap)
  obtain ⟨monitor', unit', writer'⟩ := pressureGuarded_kept (e.testMean (s.core.streams.pressure.count + gap)).1 n absorbed
  rw [← written, ← core, monitor] at monitor'
  rw [← written, ← core, unit] at unit'
  rw [← written, ← core, writer] at writer'
  rw [← pressureMean_eq]
  have listening := E.run.trans run
  refine ⟨t, ht, fun armed drops => ?_, fun armed level => ?_, fun notArmed => ?_⟩
  · have takes := triggerTest_takes (E.triggers_iff.2 ⟨E.armed armed, drops⟩) listening
      ((congrArg CheckUnit.state E.check).trans idle)
    obtain ⟨kept, context⟩ := takeTrigger_spec (e.setMonitor { e.monitor with arming := .spent })
      { source := .pressure, extra := 0, queued := false, checkAbandoned := false }
    rw [← takes] at kept context
    rw [monitor', unit', writer', context]
    refine ⟨rfl, ?_, kept.run, kept.unplacedTrigger, ?_⟩
    · exact via Streams.horizon E.streams rfl rfl
    · have settings : e.global = s.core.global := global_of_settings E.settings
      show some (PostTrigger.mk _ (e.streams.horizon + 32 * e.global.postTrigger) e.streams.pressure.count
        (e.streams.pressure.count + e.global.postTriggerP) _) = _
      rw [settings, E.streams]
      rfl
  · rw [triggerTest_kept_of_none fun h => level (E.triggers_iff.1 h).2] at monitor' unit'
    rw [monitor', unit']
    exact ⟨E.armed armed, listening⟩
  · have stays := E.notArmed notArmed
    have none : ¬e.pressureTriggers = true := fun h => notArmed (.inl (stays.symm.trans (E.triggers_iff.1 h).1))
    rw [triggerTest_kept_of_none none] at monitor' unit'
    rw [monitor', unit']
    exact ⟨stays, listening⟩

end

section
/-! A TRIGGER in LISTENING: taken, queued with a check, or taken as it abandons the check (R98 to R100, R103, R107, R108). -/

namespace Sys2Proof.Machine

/-! ### What taking a trigger makes of the rings (R100, R103) -/

/-- The state of a trigger once its context and record stand, before the rings are given their freeze states. -/
def Core.triggerBegun (k : Core) (t : TriggerTaking) : Core :=
  ((k.setMonitor { k.monitor with tt := k.streams.horizon, post := some (k.postContext t) }).setRun .postTrigger).handTrigger
    (k.triggerRecord t)

/-- The same with every ring's freeze state given, before the all-frozen test. -/
def Core.ringsGiven (k : Core) (t : TriggerTaking) : Core :=
  (forChans Core.giveFreezeState (k.triggerBegun t)).setPressureFreeze
    { state := if (forChans Core.giveFreezeState (k.triggerBegun t)).pressureEntry.valid then .counting else .noRing
      point := none }

theorem takeTrigger_eq (k : Core) (t : TriggerTaking) : k.takeTrigger t = (k.ringsGiven t).allFrozenTest := rfl

theorem ringsGiven_state (k : Core) (t : TriggerTaking) (c : Chan) :
    ((k.ringsGiven t).freezeOf c).state = k.freezeStateAtTrigger c :=
  give_freezeOf (k.triggerBegun t) c

theorem ringsGiven_run (k : Core) (t : TriggerTaking) : (k.ringsGiven t).unit.run = .postTrigger := by
  have kept : FreezeKept (k.triggerBegun t) (forChans Core.giveFreezeState (k.triggerBegun t)) :=
    forChans_rel FreezeKept.refl (fun k k' c h => h.trans (giveFreezeState_kept k' c)) _
  exact congrArg CommandUnit.run kept.unit

theorem freezeStateAtTrigger_counting_iff (k : Core) (c : Chan) : k.freezeStateAtTrigger c = .counting ↔ k.countsDown c := by
  rw [freezeStateAtTrigger_cases]
  unfold Core.countsDown
  cases k.hasRing c <;> cases k.enabled c <;> cases (k.tracker c).stalled <;> simp

theorem takeTrigger_freezeState (k : Core) (t : TriggerTaking) (c : Chan) :
    ((k.takeTrigger t).freezeOf c).state = k.freezeStateAtTrigger c :=
  (allFrozenTest_keeps (fun k => (k.freezeOf c).state) (fun _ _ => rfl) (fun _ _ => rfl) (fun _ _ => rfl) (fun _ _ => rfl) _).trans
    (ringsGiven_state k t c)

theorem takeTrigger_tracker (k : Core) (t : TriggerTaking) (c : Chan) : (k.takeTrigger t).tracker c =
    { k.tracker c with
      frozen := (k.tracker c).frozen || (k.hasRing c && (!k.enabled c || (k.tracker c).stalled)) } :=
  (allFrozenTest_keeps (fun k => k.tracker c) (fun _ _ => rfl) (fun _ _ => rfl) (fun _ _ => rfl) (fun _ _ => rfl) _).trans
    (give_tracker (k.triggerBegun t) c)

/-- POST_TRIGGER while some ring counts (R105). -/
theorem takeTrigger_postTrigger {k : Core} (counts : ∃ c, k.countsDown c) (t : TriggerTaking) :
    (k.takeTrigger t).unit.run = .postTrigger := by
  obtain ⟨c, counts⟩ := counts
  have counting : (k.ringsGiven t).Counting :=
    ⟨c, (ringsGiven_state k t c).trans ((freezeStateAtTrigger_counting_iff k c).2 counts)⟩
  rw [takeTrigger_eq, Core.allFrozenTest, if_pos ((someCounting_iff _).2 counting), ringsGiven_run]

/-- FROZEN at once when no ring counts (R105). -/
theorem takeTrigger_frozen {k : Core} (none : ∀ c, ¬k.countsDown c) (t : TriggerTaking) :
    (k.takeTrigger t).unit.run = .frozen := by
  have stands : ¬(k.ringsGiven t).someCounting = true := fun h => by
    obtain ⟨c, counting⟩ := (someCounting_iff _).1 h
    exact none c ((freezeStateAtTrigger_counting_iff k c).1 ((ringsGiven_state k t c).symm.trans counting))
  rw [takeTrigger_eq, Core.allFrozenTest, if_neg stands, allFrozenStep_run]

theorem TriggerKept.cause {k k' : Core} {t : TriggerTaking} (kept : TriggerKept k k' t) : k'.unit.pending &&& 8 = 8 := by
  obtain ⟨x, pending⟩ := kept.pending
  rw [pending]
  exact or_and_of_and (raised_pending _ .trigger) x

/-! ### A trigger while a check runs (R107, R108) -/

theorem dispatchTrigger_queues {k : Core} (run : k.unit.run = .listening) (check : k.check.state ≠ .idle)
    (setting : k.global.triggerInCheck = .queue) (src : TriggerSource) : k.dispatchTrigger src = k.queueTrigger src := by
  unfold Core.dispatchTrigger
  rw [run, setting]
  exact if_pos ((checkRuns_iff k).2 check)

theorem dispatchTrigger_abandons {k : Core} (run : k.unit.run = .listening) (check : k.check.state ≠ .idle)
    (setting : k.global.triggerInCheck = .abandon) (src : TriggerSource) :
    k.dispatchTrigger src = k.abandonByTrigger src := by
  unfold Core.dispatchTrigger
  rw [run, setting]
  exact if_pos ((checkRuns_iff k).2 check)

theorem queueTrigger_fresh {k : Core} (queued : k.check.queued = none) (src : TriggerSource) :
    k.queueTrigger src = (k.setQueuedTrigger (some { source := src, extra := 0 }), .queued, 0) := by
  unfold Core.queueTrigger
  rw [queued]

theorem queueTrigger_extra {k : Core} {q : QueuedTrigger} (queued : k.check.queued = some q) (src : TriggerSource) :
    k.queueTrigger src = (k.setQueuedTrigger (some { q with extra := satInc q.extra }), .extra, satInc q.extra) := by
  unfold Core.queueTrigger
  rw [queued]

/-- An extra trigger changes the context alone. -/
theorem TriggerKept.extra {k k' : Core} {t : TriggerTaking} (kept : TriggerKept k k' t) : TriggerKept k k'.extraTrigger t := by
  unfold Core.extraTrigger
  split
  · exact ⟨kept.group, kept.check, kept.holds, kept.lastFwd, kept.nextHit, kept.settings, kept.due, kept.unplacedTrigger,
      kept.unplacedCheck, kept.detector, kept.run, kept.queue, kept.pending⟩
  · exact kept

/-- Two causes that are pending. -/
theorem and_or_of_and {x a b : Byte} (ha : x &&& a = a) (hb : x &&& b = b) : x &&& (a ||| b) = a ||| b := by
  rw [BitVec.and_or_distrib_left, ha, hb]

theorem markFrozen_of_armed {d : Detector} {e : Option Nat} (h : d.state = .armed e) : d.markFrozen = d :=
  markFrozen_other d fun x opened => by rw [h] at opened; cases opened

/-- A detector that was in CHECK is back in ARMED; a freeze does not touch it (R43). -/
theorem Core.CheckAbandoned.detector_armed {k k' k'' : Core} {t : TriggerTaking} (A : k.CheckAbandoned k')
    (kept : TriggerKept k' k'' t) {j : Chan} (inCheck : (k.detector j).inCheck = true) :
    k''.detector j = { k.detector j with
      state := .armed none, threshold := thresholdFor (k.settingsOf j) (k.detector j).noise } := by
  have armed := (A.detectors j).trans (detectorAfterCheck_of_inCheck inCheck)
  rcases kept.detector j with same | frozen
  · exact same.trans armed
  · rw [frozen, armed, markFrozen_of_armed rfl]

/-- The CHECK record goes before the TRIGGER record. -/
theorem Core.CheckAbandoned.queue {k k' k'' : Core} {t : TriggerTaking} (A : k.CheckAbandoned k')
    (kept : TriggerKept k' k'' t) : ∃ rest, k''.writer.queue = k.writer.queue ++
      .check (k.checkRecord .abandoned (some .trigger) k.check.queued.isSome) :: .trigger (k'.triggerRecord t) :: rest := by
  obtain ⟨rest, queue⟩ := kept.queue
  exact ⟨rest, by rw [queue, A.writer, List.append_assoc]; rfl⟩

theorem Core.CheckAbandoned.causes {k k' k'' : Core} {t : TriggerTaking} (A : k.CheckAbandoned k')
    (grown : k'.Grows k'') (kept : TriggerKept k' k'' t) : k''.unit.pending &&& 40 = 40 := by
  have check : k''.unit.pending &&& 32 = 32 := grown.bit 32 (by rw [A.pending]; exact raised_pending _ .check)
  exact and_or_of_and kept.cause check

/-- The monitor as a trigger taken then leaves it. -/
theorem Core.CheckAbandoned.monitor_taken {k k' : Core} (A : k.CheckAbandoned k') (t : TriggerTaking) :
    (k'.takeTrigger t).monitor = { k.monitor with tt := k.streams.horizon, post := some (k.postContext t) } := by
  have context : k'.postContext t = k.postContext t := by
    unfold Core.postContext
    rw [A.streams, global_of_settings A.settings]
  rw [(takeTrigger_spec k' t).2, context, A.monitor, A.streams]

/-- What a trigger leaves that abandons a check, its context p aside from the count: `taken` is the trigger taken. -/
structure Core.TakenInCheck (k k' : Core) (p : PostTrigger) (taken : TriggerTaking) : Prop where
  kept    : TriggerKept k.checkAbandoned k' taken
  grown   : k.checkAbandoned.Grows k'
  monitor : k'.monitor = { k.monitor with tt := k.streams.horizon, post := some p }
  context : p = { k.postContext taken with extra := p.extra }

theorem abandonByTrigger_taken (k : Core) (src : TriggerSource) :
    ∃ p, k.TakenInCheck (k.abandonByTrigger src).1 p (k.takingInCheck src) ∧
      (k.check.queued = none → p.source = src ∧ p.extra = 0 ∧ (k.abandonByTrigger src).2 = (.taken, 0)) ∧
      ∀ q, k.check.queued = some q → p.source = q.source ∧ p.extra = satInc q.extra ∧
        (k.abandonByTrigger src).2 = (.extra, satInc q.extra) := by
  have monitor := (checkAbandoned_spec k).monitor_taken (k.takingInCheck src)
  have kept := (takeTrigger_spec k.checkAbandoned (k.takingInCheck src)).1
  have grown := grows_takeTrigger k.checkAbandoned (k.takingInCheck src)
  cases queued : k.check.queued with
  | none =>
    rw [abandonByTrigger_fresh queued]
    have source : (k.takingInCheck src).source = src := by rw [Core.takingInCheck, queued]; rfl
    have extra : (k.takingInCheck src).extra = 0 := by rw [Core.takingInCheck, queued]; rfl
    exact ⟨_, ⟨kept, grown, monitor, rfl⟩, fun _ => ⟨source, extra, rfl⟩, nofun⟩
  | some q =>
    have source : (k.takingInCheck src).source = q.source := by rw [Core.takingInCheck, queued]; rfl
    have extra : (k.takingInCheck src).extra = q.extra := by rw [Core.takingInCheck, queued]; rfl
    have counted : (k.checkAbandoned.takeTrigger (k.takingInCheck src)).extraTrigger.monitor =
        { k.monitor with
          tt := k.streams.horizon
          post := some { k.postContext (k.takingInCheck src) with extra := satInc (k.takingInCheck src).extra } } := by
      rw [extraTrigger_of_post (congrArg Monitor.post monitor), monitor]
      rfl
    rw [abandonByTrigger_queued queued]
    refine ⟨_, ⟨kept.extra, grown.trans (grows_extraTrigger _), counted, rfl⟩, nofun, ?_⟩
    rintro _ ⟨rfl⟩
    rw [extraCount_of_post (congrArg Monitor.post counted)]
    exact ⟨source, congrArg satInc extra, congrArg (fun n => (_, satInc n)) extra⟩

end Sys2Proof.Machine

open Sys2Proof Sys2Proof.Machine

/-- Settles O11: where the trigger goes by check state and setting, and what it leaves there. -/
theorem triggerTaken : Obligations.TriggerTaken := by
  intro w s ready busy kind run answer
  obtain ⟨t, ht, page, core⟩ := command_run (i := .trigger w) ready busy kind nofun nofun rfl
  rw [Core.takeReady, kind] at core
  replace core := core.trans (takeTriggerCommand_dispatches (by rw [run]; nofun) (pageData w))
  have due := (busy_due busy).2
  refine ⟨fun idle => ?_, fun check setting => ?_, fun check setting => ?_⟩
  · rw [dispatchTrigger_takes run idle] at core
    obtain ⟨kept, monitor⟩ := takeTrigger_spec s.core
      { source := .command, extra := 0, queued := false, checkAbandoned := false }
    obtain ⟨rest, queue⟩ := kept.queue
    replace core := core.trans (answer_eq (kept.due.trans due))
    refine ⟨t, ht, page, ?_⟩
    rw [core]
    exact ⟨rfl, monitor, ⟨_, rest, queue, rfl, rfl, rfl, rfl, rfl, rfl, rfl, rfl, rfl, rfl, rfl⟩, kept.cause,
      fun c => (takeTrigger_freezeState s.core _ c).trans (freezeStateAtTrigger_cases s.core c),
      fun counts => takeTrigger_postTrigger counts _, fun none => takeTrigger_frozen none _, kept.holds, kept.group,
      kept.nextHit, kept.settings, kept.check, takeTrigger_tracker s.core _⟩
  · rw [dispatchTrigger_queues run check setting] at core
    refine ⟨t, ht, page, fun none => ?_, fun q queued => ?_⟩
    · rw [queueTrigger_fresh none] at core
      exact core.trans (answer_eq (k := s.core.setQueuedTrigger _) due)
    · rw [queueTrigger_extra queued] at core
      exact core.trans (answer_eq (k := s.core.setQueuedTrigger _) due)
  · rw [dispatchTrigger_abandons run check setting] at core
    obtain ⟨p, ⟨kept, grown, monitor, context⟩, fresh, extra⟩ := abandonByTrigger_taken s.core .command
    have A := checkAbandoned_spec s.core
    replace core := core.trans (answer_eq (kept.due.trans (A.due.trans due)))
    generalize s.core.abandonByTrigger .command = taken at core kept grown monitor fresh extra
    obtain ⟨rest, queue⟩ := A.queue kept
    have causes := A.causes grown kept
    have armed := fun j => A.detector_armed kept (j := j)
    refine ⟨t, p, ht, page, ?_⟩
    rw [core]
    refine ⟨congrArg CheckUnit.state (kept.check.trans A.check), congrArg CheckUnit.queued (kept.check.trans A.check),
      ⟨_, _, rest, queue, rfl, rfl, rfl, rfl, rfl, rfl, rfl, ?_, congrArg Streams.horizon A.streams, rfl⟩,
      kept.unplacedCheck.trans (congrArg Writer.unplacedCheck A.writer), kept.unplacedTrigger, causes,
      fun j inCheck => ⟨congrArg Detector.state (armed j inCheck), congrArg Detector.threshold (armed j inCheck)⟩, monitor,
      congrArg PostTrigger.freezeTime context, congrArg PostTrigger.tp context, congrArg PostTrigger.freezeNumber context, fun none => ?_, fun q queued => ?_, kept.run, kept.group.trans A.group,
      kept.holds.trans (congrArg Guard.holds A.guard), kept.nextHit.trans A.nextHit, kept.settings.trans A.settings⟩
    · exact (congrArg PostTrigger.source context).symm
    · obtain ⟨source, count, answered⟩ := fresh none
      rw [answered]
      exact ⟨source, count, rfl⟩
    · obtain ⟨source, count, answered⟩ := extra q queued
      rw [answered]
      exact ⟨source, count, rfl⟩

end

section
/-! Commands refused in READY (R117, R173, R175 to R177, R182), one rule for each test, and the end of the pulse strobe
(R119). -/

namespace Sys2Proof.Machine

/-! ### START, STOP and TRIGGER (R175 to R177) -/

theorem takeStart_wrongState {k : Core} (run : k.unit.run ≠ .stopped) (b : Block) : k.takeStart b = k.refuse b .wrongState :=
  if_pos run

theorem takeStart_notApplied {k : Core} (run : k.unit.run = .stopped) (applied : k.unit.applied = false) (b : Block) :
    k.takeStart b = k.refuse b .notApplied :=
  (if_neg (not_not_intro run)).trans (if_pos applied)

theorem takeStart_pending {k : Core} (run : k.unit.run = .stopped) (applied : k.unit.applied = true)
    (unplaced : k.writer.unplacedTrigger = true ∨ k.writer.unplacedFreeze = true) (b : Block) :
    k.takeStart b = k.refuse b .pending :=
  (if_neg (not_not_intro run)).trans ((if_neg (by rw [applied]; nofun)).trans (if_pos unplaced))

theorem takeStop_wrongState {k : Core} (run : k.unit.run = .stopped) (b : Block) : k.takeStop b = k.refuse b .wrongState :=
  if_pos run

theorem takeTriggerCommand_wrongState {k : Core} (run : k.unit.run = .stopped) (b : Block) :
    k.takeTriggerCommand b = k.refuse b .wrongState :=
  if_pos run

/-! ### CHECK (R117) -/

theorem chanOf_of_ge {n : Nat} (h : 32 ≤ n) : chanOf n = none := dif_neg (Nat.not_lt.2 h)

/-- The tests of R117 that come before those of the fields are passed: no check runs in LISTENING, and no CHECK record is
unplaced. -/
structure Core.MayCheck (k : Core) : Prop where
  run    : k.unit.run = .listening
  idle   : k.check.state = .idle
  placed : k.writer.unplacedCheck = false

theorem checkRefusal_unnamed {k : Core} (may : k.MayCheck) {src : Nat} (unnamed : chanOf src = none) (window : Nat) :
    k.checkRefusal src window = some .invalidField := by
  obtain ⟨run, idle, placed⟩ := may
  simp [Core.checkRefusal, Core.checkRuns, run, idle, placed, unnamed]

theorem checkRefusal_named {k : Core} (may : k.MayCheck) {src : Nat} {c : Chan} (named : chanOf src = some c) (window : Nat) :
    k.checkRefusal src window =
      if window < 16 ∨ 4095 < window then some .invalidField
      else if k.participates c then none
      else some .sourceUnavailable := by
  obtain ⟨run, idle, placed⟩ := may
  simp [Core.checkRefusal, Core.checkRuns, run, idle, placed, named]

theorem checkRefusal_wrongState {k : Core} (h : ¬(k.unit.run = .listening ∧ k.check.state = .idle)) (src window : Nat) :
    k.checkRefusal src window = some .wrongState := by
  by_cases run : k.unit.run = .listening
  · have runs : k.checkRuns = true := (checkRuns_iff k).2 fun idle => h ⟨run, idle⟩
    exact (if_neg (not_not_intro run)).trans (if_pos runs)
  · exact if_pos run

theorem checkRefusal_pending {k : Core} (run : k.unit.run = .listening) (idle : k.check.state = .idle)
    (unplaced : k.writer.unplacedCheck = true) (src window : Nat) : k.checkRefusal src window = some .pending := by
  simp [Core.checkRefusal, Core.checkRuns, run, idle, unplaced]

theorem checkRefusal_invalidField {k : Core} (may : k.MayCheck) {src window : Nat}
    (fields : ¬(src < 32 ∧ 16 ≤ window ∧ window ≤ 4095)) : k.checkRefusal src window = some .invalidField := by
  by_cases high : 32 ≤ src
  · exact checkRefusal_unnamed may (chanOf_of_ge high) window
  · obtain ⟨c, named, -⟩ := chanOf_of_le (n := src) (by omega)
    exact (checkRefusal_named may named window).trans (if_pos (by omega))

theorem checkRefusal_sourceUnavailable {k : Core} (may : k.MayCheck) {src window : Nat}
    (fields : src < 32 ∧ 16 ≤ window ∧ window ≤ 4095)
    (out : ∀ c : Chan, c.val = src → ¬(k.enabled c = true ∧ (k.tracker c).stalled = false)) :
    k.checkRefusal src window = some .sourceUnavailable := by
  obtain ⟨c, named, val⟩ := chanOf_of_le (n := src) (by omega)
  have inRange : ¬(window < 16 ∨ 4095 < window) := by omega
  have absent : ¬k.participates c = true := by simpa [Core.participates] using out c val
  exact (checkRefusal_named may named window).trans ((if_neg inRange).trans (if_neg absent))

theorem takeCheckCommand_refused {k : Core} {b : Block} {r : AnswerResult}
    (refused : k.checkRefusal (checkSource b) (checkWindow b) = some r) : k.takeCheckCommand b = k.refuse b r := by
  unfold Core.takeCheckCommand
  rw [refused]

/-! ### RELEASE and SNAPSHOT (R177, R182) -/

/-- A RELEASE with a field out of range names no holds. -/
theorem releaseTargets_outOfRange {k : Core} {b : Block}
    (h : (releaseScope b = 1 ∧ 63 < releaseHoldNumber b) ∨ (releaseScope b = 2 ∧ 31 < releaseChan b) ∨ releaseScope b = 0 ∨
      3 < releaseScope b) : k.releaseTargets b = none := by
  unfold Core.releaseTargets
  rcases h with ⟨scope, number⟩ | ⟨scope, channel⟩ | scope | scope
  · simp only [scope]
    exact if_pos number
  · simp only [scope, chanOf_of_ge channel, Option.map_none]
  · simp only [scope]
  · split
    · omega
    · omega
    · omega
    · rfl

theorem takeRelease_refused {k : Core} {b : Block} (names : k.releaseTargets b = none) :
    k.takeRelease b = k.refuse b .invalidField := by
  unfold Core.takeRelease
  rw [names]

theorem targetOf_outOfRange {n : Nat} (h : n = 0 ∨ 2 < n) : targetOf n = none := by
  unfold targetOf
  split
  · omega
  · omega
  · rfl

theorem takeSnapshot_refused {k : Core} {b : Block} (names : targetOf (snapshotTarget b) = none) :
    k.takeSnapshot b = k.refuse b .invalidField := by
  unfold Core.takeSnapshot
  rw [names]

/-! ### A refusal, from the write to the answer (R173) -/

theorem commandKind_unknown {code : Byte} (h : code = 0 ∨ 9 < code.toNat) : commandKind code = .unknown := by
  obtain ⟨-, -, -, -, -, -, -, -, -, unknown⟩ := Laws.RowCodes.kind_code code
  exact unknown.2 h

/-- The refusal is the whole of what the command leaves: the answer due and the dirty mark. -/
theorem refused_answered {s : State} {w : PageWrite} {i : Instr} {kind : CommandKind} {r : AnswerResult} (ready : s.Ready .host)
    (busy : s.core.unit.busy = false) (row : i ∈ commandsOf w) (named : commandKind (commandCode (pageData w)) = kind)
    (notClear : kind ≠ .clear) (notApply : kind ≠ .apply)
    (refused : s.core.takeReady (pageData w) = s.core.refuse (pageData w) r) :
    ∃ t, exec i s = .next t ∧ s.PageTaken t 0 w false ∧
      t.core = { s.core with unit := { s.core.unit with
        due := [{ tag := commandTag (pageData w), code := commandCode (pageData w), result := some r, detail := .plain }]
        dirty := true } } := by
  obtain ⟨t, ht, page, core⟩ := command_run ready busy named notClear notApply (exec_commandsOf row s)
  exact ⟨t, ht, page, core.trans (refused.trans (answer_eq (busy_due busy).2))⟩

end Sys2Proof.Machine

open Sys2Proof Sys2Proof.Machine

/-- Settles O47: the strobe is the check unit's alone, and the presentation that follows touches the arbiter alone. -/
theorem strobeEnds : Obligations.StrobeEnds := fun s =>
  ⟨_, rfl, linkKept_setCore s s.core.endStrobe, State.present_core _⟩

/-- Settles O8: the command's row is a write to block 0, its code names the command, and the first test that fails is the
refusal that is answered. -/
theorem refusedIsAnswered : Obligations.RefusedIsAnswered := by
  intro w s i r ready busy
  dsimp only
  rintro (⟨rfl, code, rfl⟩ | ⟨rfl, kind, test⟩ | ⟨rfl, kind, run, rfl⟩ | ⟨rfl, kind, run, rfl⟩ | ⟨rfl, kind, test⟩ |
    ⟨rfl, kind, test⟩ | ⟨row, kind, range, rfl⟩ | ⟨row, kind, range, rfl⟩)
  · have kind := commandKind_unknown code
    refine refused_answered ready busy (by simp [commandsOf]) kind nofun nofun ?_
    rw [Core.takeReady, kind]
  · refine refused_answered ready busy (by simp [commandsOf]) kind nofun nofun ?_
    rw [Core.takeReady, kind]
    rcases test with ⟨run, rfl⟩ | ⟨run, applied, rfl⟩ | ⟨run, applied, unplaced, rfl⟩
    · exact takeStart_wrongState run _
    · exact takeStart_notApplied run applied _
    · exact takeStart_pending run applied unplaced _
  · refine refused_answered ready busy (by simp [commandsOf]) kind nofun nofun ?_
    rw [Core.takeReady, kind]
    exact takeStop_wrongState run _
  · refine refused_answered ready busy (by simp [commandsOf]) kind nofun nofun ?_
    rw [Core.takeReady, kind]
    exact takeTriggerCommand_wrongState run _
  · refine refused_answered ready busy (by simp [commandsOf]) kind nofun nofun ?_
    rw [Core.takeReady, kind]
    rcases test with ⟨run, rfl⟩ | ⟨run, unplaced, rfl⟩
    · exact takeThaw_wrongState run _
    · exact takeThaw_pending run unplaced _
  · refine refused_answered ready busy (by simp [commandsOf]) kind nofun nofun ?_
    rw [Core.takeReady, kind]
    refine takeCheckCommand_refused ?_
    rcases test with ⟨state, rfl⟩ | ⟨⟨run, idle⟩, unplaced, rfl⟩ | ⟨⟨run, idle⟩, placed, fields, rfl⟩ |
      ⟨⟨run, idle⟩, placed, fields, out, rfl⟩
    · exact checkRefusal_wrongState state _ _
    · exact checkRefusal_pending run idle unplaced _ _
    · exact checkRefusal_invalidField ⟨run, idle, placed⟩ fields
    · exact checkRefusal_sourceUnavailable ⟨run, idle, placed⟩ fields out
  · have rows : [.releaseOne w, .releaseChannel w, .releaseAll w] ⊆ commandsOf w := by simp [commandsOf]
    refine refused_answered ready busy (rows row) kind nofun nofun ?_
    rw [Core.takeReady, kind]
    exact takeRelease_refused (releaseTargets_outOfRange range)
  · have rows : [.snapshotChannels w, .snapshotPaths w] ⊆ commandsOf w := by simp [commandsOf]
    refine refused_answered ready busy (rows row) kind nofun nofun ?_
    rw [Core.takeReady, kind]
    exact takeSnapshot_refused (targetOf_outOfRange range)

end

section
/-! The record ring (R136, R137, R139, R141, R149): what `Core.RingSound` reads, and what the rest of the part leaves of it. -/

namespace Sys2Proof.Machine

/-! ### What the soundness of the record ring reads -/

/-- The indices of the record ring, the placement in progress and the ring's layout entry: all that `Core.RingSound` speaks
of. -/
structure RecordRing where
  produce   : Nat
  drain     : Nat
  occupancy : Nat
  placement : Option Placement
  entry     : LayoutEntry

def Core.recordRing (k : Core) : RecordRing :=
  { produce := k.writer.produce, drain := k.writer.drain, occupancy := k.writer.occupancy, placement := k.writer.placement,
    entry := k.recordEntry }

theorem Core.RingSound.of_recordRing {k k' : Core} (s : k.RingSound) (h : k'.recordRing = k.recordRing) : k'.RingSound := by
  have produce : k'.writer.produce = k.writer.produce := congrArg RecordRing.produce h
  have drain : k'.writer.drain = k.writer.drain := congrArg RecordRing.drain h
  have occupancy : k'.writer.occupancy = k.writer.occupancy := congrArg RecordRing.occupancy h
  have placement : k'.writer.placement = k.writer.placement := congrArg RecordRing.placement h
  have entry : k'.recordEntry = k.recordEntry := congrArg RecordRing.entry h
  have slots : k'.slots = k.slots := congrArg LayoutEntry.size entry
  constructor
  · rw [occupancy, slots]; exact s.bound
  · rw [drain, slots]; exact s.drain
  · rw [produce, drain, occupancy, slots]; exact s.produce
  · rw [placement, produce, occupancy, slots]; exact s.placement
  · rw [entry, produce, drain, occupancy, placement]; exact s.absent

/-- The ring indices are part of the writer's ring and the layout entry of the active settings. -/
theorem recordRing_of_ring {k k' : Core} (ring : k'.writer.ring = k.writer.ring)
    (settings : k'.unit.settings = k.unit.settings) : k'.recordRing = k.recordRing := by
  have produce : k'.writer.produce = k.writer.produce := congrArg RingView.produce ring
  have drain : k'.writer.drain = k.writer.drain := congrArg RingView.drain ring
  have occupancy : k'.writer.occupancy = k.writer.occupancy := congrArg RingView.occupancy ring
  have placement : k'.writer.placement = k.writer.placement := congrArg RingView.placement ring
  have entry : k'.recordEntry = k.recordEntry := by
    unfold Core.recordEntry Core.layoutEntry
    rw [settings]
  unfold Core.recordRing
  rw [produce, drain, occupancy, placement, entry]

theorem recordRing_of_view {k k' : Core} (h : k'.view = k.view) : k'.recordRing = k.recordRing :=
  recordRing_of_ring (congrArg View.ring h) (Core.view_settings h)

theorem Core.RingSound.of_view {k k' : Core} (s : k.RingSound) (h : k'.view = k.view) : k'.RingSound :=
  s.of_recordRing (recordRing_of_view h)

theorem Core.slots_pos (k : Core) : 0 < k.slots := Nat.two_pow_pos _

/-- An empty ring with no placement in progress is sound whatever its layout (R149, R150). -/
theorem ringSound_of_empty {k : Core} (produce : k.writer.produce = 0) (drain : k.writer.drain = 0)
    (occupancy : k.writer.occupancy = 0) (placement : k.writer.placement = none) : k.RingSound where
  bound := by rw [occupancy]; exact Nat.zero_le _
  drain := by rw [drain]; exact k.slots_pos
  produce := by rw [produce, drain, occupancy, Nat.zero_mod]
  placement := fun p hp => by rw [placement] at hp; cases hp
  absent := fun _ => ⟨produce, drain, occupancy, placement⟩

/-! ### Ring writes leave it alone -/

theorem position_recordRing (k : Core) (c : Chan) (n : Nat) (full : Bool) :
    (k.position c n full).1.recordRing = k.recordRing := by
  have skip : ∀ d, (k.takeSkip c n d).1.recordRing = k.recordRing := by
    intro d
    have faulted : ((k.acousticFault c .skip n (some d)).reportSkip c).recordRing = k.recordRing :=
      recordRing_of_view ((Core.reportSkip_view _ c).trans (k.raiseFault_view _))
    unfold Core.takeSkip
    dsimp only
    split <;> exact faulted
  unfold Core.position
  dsimp only
  split
  · rfl
  · exact recordRing_of_view (k.raiseFault_view _)
  · rfl
  · rfl
  · rfl
  · exact skip _
  · exact recordRing_of_view (k.raiseFault_view _)

theorem detectStage_recordRing (k : Core) (c : Chan) (n : Nat) (start : Option Nat) (data : Block) :
    (k.detectStage c n start data).recordRing = k.recordRing := by
  unfold Core.detectStage
  split
  · exact recordRing_of_view (k.takeBlock_view c n _ data)
  · rfl

theorem guardStage_recordRing (k : Core) (c : Chan) (n : Nat) (absorbs : Bool) (held : Option (Fin 64)) (start : Option Nat) :
    (k.guardStage c n absorbs held start).1.recordRing = k.recordRing := by
  have frozen : (if k.freezesAtWrite c start then (k.freezeRing c .atWrite).allFrozenTest else k).recordRing = k.recordRing := by
    split
    · exact recordRing_of_view ((Core.allFrozenTest_view _).trans (k.freezeRing_view c _))
    · rfl
  unfold Core.guardStage
  dsimp only
  split
  · exact (recordRing_of_view (Core.countAbsorbed_view _ c held)).trans frozen
  · exact frozen

theorem timeStage_recordRing (k : Core) (c : Chan) (start : Option Nat) (found : Bool) :
    (k.timeStage c start found).recordRing = k.recordRing := by
  unfold Core.timeStage
  split
  · rename_i st
    have counted : (k.setCount c (st / 32 + 1)).recordRing = k.recordRing := rfl
    unfold Core.recordTime
    refine Eq.trans (recordRing_of_view ?_) counted
    rw [Core.recomputeHorizon_view, Core.stallTests_view, Core.recomputeLead_view]
  · rfl

theorem acousticWrite_recordRing (k : Core) (c : Chan) (n : Nat) (w : BlockWrite) :
    (k.acousticWrite c n w).1.recordRing = k.recordRing := by
  unfold Core.acousticWrite
  dsimp only
  rw [timeStage_recordRing, guardStage_recordRing, detectStage_recordRing, position_recordRing]

theorem pressurePosition_recordRing (k : Core) (n : Nat) (full : Bool) :
    (k.pressurePosition n full).1.recordRing = k.recordRing := by
  have skip : ∀ d, (k.takePressureSkip n d).1.recordRing = k.recordRing := by
    intro d
    have faulted : (k.pressureFault .skip n (some d)).recordRing = k.recordRing := recordRing_of_view (k.raiseFault_view _)
    unfold Core.takePressureSkip
    dsimp only
    split <;> exact faulted
  unfold Core.pressurePosition
  dsimp only
  split
  · rfl
  · exact recordRing_of_view (k.raiseFault_view _)
  · rfl
  · rfl
  · rfl
  · exact skip _
  · exact recordRing_of_view (k.raiseFault_view _)

theorem evaluatePhase_recordRing (k : Core) (number : Nat) : (k.evaluatePhase number).recordRing = k.recordRing := by
  unfold Core.evaluatePhase
  dsimp only
  split
  · rfl
  · exact recordRing_of_view (Core.handSheddable_view _ _)

theorem triggerTest_recordRing (k : Core) : k.triggerTest.recordRing = k.recordRing := by
  unfold Core.triggerTest
  split
  · exact recordRing_of_view (Core.dispatchTrigger_view (k.setMonitor { k.monitor with arming := .spent }) .pressure)
  · rfl

theorem monitorStage_recordRing (k : Core) (number : Option Nat) (data : Block) :
    (k.monitorStage number data).1.recordRing = k.recordRing := by
  have tested : ∀ (k : Core) m, (k.evaluatePhase m).triggerTest.recordRing = k.recordRing := fun k m =>
    (triggerTest_recordRing _).trans (evaluatePhase_recordRing k m)
  unfold Core.monitorStage
  split
  · unfold Core.takePressureBlock
    dsimp only
    split
    · exact tested _ _
    · exact tested _ _
  · rfl

theorem pressureWrite_recordRing (k : Core) (n : Nat) (w : BlockWrite) :
    (k.pressureWrite n w).1.recordRing = k.recordRing := by
  have heard := (monitorStage_recordRing (k.pressurePosition n (w.mask == fullMask)).1
    (k.pressurePosition n (w.mask == fullMask)).2 w.data).trans (pressurePosition_recordRing k n _)
  unfold Core.pressureWrite
  dsimp only
  split <;> exact heard

/-! ### Commands -/

theorem clear_ringSound (k : Core) (b : Block) : (k.clear b).RingSound := ringSound_of_empty rfl rfl rfl rfl

theorem startRun_recordRing (k : Core) : k.startRun.recordRing = k.recordRing := rfl

theorem stopRun_recordRing (k : Core) : k.stopRun.recordRing = k.recordRing := by
  have stopped := stopRun_spec k
  generalize k.stopRun = k' at stopped ⊢
  exact recordRing_of_ring stopped.ring (congrArg CommandUnit.settings stopped.unit :)

theorem takeCheck_recordRing (k : Core) (c : Chan) (window : Nat) (update : Bool) :
    (k.takeCheck c window update).recordRing = k.recordRing :=
  forChans_keeps Core.recordRing (fun k c => recordRing_of_view (k.enterCheckAtStart_view c)) k

theorem answer_recordRing (k : Core) (b : Block) (r : AnswerResult) (d : AnswerDetail) :
    (k.answer b r d).recordRing = k.recordRing := rfl

theorem refuse_recordRing (k : Core) (b : Block) (r : AnswerResult) : (k.refuse b r).recordRing = k.recordRing := rfl

theorem takeStart_recordRing (k : Core) (b : Block) : (k.takeStart b).recordRing = k.recordRing := by
  unfold Core.takeStart
  split
  · exact refuse_recordRing ..
  · split
    · exact refuse_recordRing ..
    · split
      · exact refuse_recordRing ..
      · exact (answer_recordRing ..).trans (startRun_recordRing k)

theorem takeStop_recordRing (k : Core) (b : Block) : (k.takeStop b).recordRing = k.recordRing := by
  unfold Core.takeStop
  split
  · exact refuse_recordRing ..
  · exact (answer_recordRing ..).trans (stopRun_recordRing k)

theorem takeTriggerCommand_recordRing (k : Core) (b : Block) : (k.takeTriggerCommand b).recordRing = k.recordRing := by
  unfold Core.takeTriggerCommand
  split
  · exact refuse_recordRing ..
  · exact (answer_recordRing ..).trans (recordRing_of_view (k.dispatchTrigger_view .command))

theorem takeThaw_recordRing (k : Core) (b : Block) : (k.takeThaw b).recordRing = k.recordRing := by
  unfold Core.takeThaw
  split
  · exact refuse_recordRing ..
  · split
    · exact refuse_recordRing ..
    · rfl

theorem takeCheckCommand_recordRing (k : Core) (b : Block) : (k.takeCheckCommand b).recordRing = k.recordRing := by
  unfold Core.takeCheckCommand
  split
  · exact refuse_recordRing ..
  · split
    · exact refuse_recordRing ..
    · exact (answer_recordRing ..).trans (takeCheck_recordRing k ..)

theorem takeRelease_recordRing (k : Core) (b : Block) : (k.takeRelease b).recordRing = k.recordRing := by
  unfold Core.takeRelease
  split
  · exact refuse_recordRing ..
  · exact (answer_recordRing ..).trans (recordRing_of_view (k.releaseList_view _))

theorem takeSnapshot_recordRing (k : Core) (b : Block) : (k.takeSnapshot b).recordRing = k.recordRing := by
  unfold Core.takeSnapshot
  split <;> rfl

theorem Core.RingSound.takeReady {k : Core} (s : k.RingSound) (b : Block) : (k.takeReady b).RingSound := by
  unfold Core.takeReady
  split
  · exact s.of_recordRing rfl
  · exact s.of_recordRing (takeStart_recordRing k b)
  · exact s.of_recordRing (takeStop_recordRing k b)
  · exact s.of_recordRing (takeTriggerCommand_recordRing k b)
  · exact s.of_recordRing (takeThaw_recordRing k b)
  · exact s.of_recordRing (takeCheckCommand_recordRing k b)
  · exact s.of_recordRing (takeRelease_recordRing k b)
  · exact s.of_recordRing (takeSnapshot_recordRing k b)
  · exact clear_ringSound k b
  · exact s.of_recordRing (refuse_recordRing k b _)

theorem Core.RingSound.takeCommand {k : Core} (s : k.RingSound) (b : Block) : (k.takeCommand b).RingSound := by
  unfold Core.takeCommand
  split
  · exact clear_ringSound k b
  · split
    · exact s.of_recordRing rfl
    · exact s.takeReady b

end Sys2Proof.Machine
end

section
/-! The record ring stays sound under placement, publication, drain, failed writes, activations and commands, and so under
every step (R136, R137, R139, R141, R148, R149). -/

namespace Sys2Proof.Machine

/-! ### Placement (R137, R138) -/

/-- A record spans 1 to 3 slots (R67, R130). -/
theorem Record.span_bounds (r : Record) : 1 ≤ r.span ∧ r.span ≤ 3 := by
  cases r with
  | event r =>
    unfold Record.span eventSpan
    dsimp only
    (repeat' split) <;> decide
  | _ => simp [Record.span]

/-- A head that can be placed fits the free slots (R137). -/
theorem placeable_fits {k : Core} {r : Record} (h : k.placeable r = true) : k.need r ≤ k.freeSlots := by
  unfold Core.placeable at h
  split at h
  · have := of_decide_eq_true h
    omega
  · exact of_decide_eq_true h

/-- A placement that begins does so at the produce index, and fits (R137, R138). -/
theorem Core.RingSound.beginPlacement {k : Core} (s : k.RingSound) {r : Record} (rest : List Record)
    (valid : k.recordEntry.valid = true) (fits : k.placeable r = true) : (k.beginPlacement r rest).RingSound := by
  obtain ⟨bound, drain, produce, -, -⟩ := s
  have room := placeable_fits fits
  obtain ⟨span, -⟩ := r.span_bounds
  unfold Core.need Core.freeSlots at room
  unfold Core.beginPlacement
  refine RingSound.of_view ?_ (Core.shedHeads_view _)
  constructor
  · exact bound
  · exact drain
  · exact produce
  · rintro p ⟨⟩
    refine ⟨rfl, ?_, ?_⟩
    · show 0 < k.padFor r.span + r.span
      omega
    · show k.writer.occupancy + (k.padFor r.span + r.span) ≤ k.slots - 1
      omega
  · intro absent
    exact absurd (absent.symm.trans valid) nofun

theorem headBlocked_view (k : Core) (r : Record) (rest : List Record) (now : BitVec 32) :
    (k.headBlocked r rest now).view = k.view := by
  unfold Core.headBlocked
  split
  · split
    · exact (Core.setMode_view _ _).trans (Core.setWriter_view _ _ rfl)
    · split <;> simp
  · rfl
  · rfl

theorem Core.RingSound.considerHead {k : Core} (s : k.RingSound) (now : BitVec 32) : (k.considerHead now).RingSound := by
  have shed : k.shedHeads.RingSound := s.of_view k.shedHeads_view
  unfold Core.considerHead
  dsimp only
  split
  · exact shed
  · rename_i free
    have valid : k.shedHeads.recordEntry.valid = true := by
      by_contra absent
      exact free (.inr (.inr absent))
    split
    · exact shed
    · split
      · rename_i fits
        exact shed.beginPlacement _ valid fits
      · exact shed.of_view (headBlocked_view ..)

theorem stallExpiry_view (k : Core) (now : BitVec 32) : (k.stallExpiry now).view = k.view := by
  have counted : (k.setWriter { k.writer with
      loss := { k.writer.loss with expiries := satInc k.writer.loss.expiries } }).view = k.view := Core.setWriter_view _ _ rfl
  unfold Core.stallExpiry
  split
  · split
    · unfold Core.expireStall
      rw [Core.enterShedding_view]
      dsimp only
      split
      · exact counted
      · split
        · simpa using counted
        · exact counted
    · rfl
  · rfl
  · rfl

/-! ### Publication and failed writes (R139, R148) -/

/-- The ring indices moved past a placement, which is over; marks, causes and mode stand as before. -/
def Core.advanced (k : Core) (p : Placement) : Core :=
  k.setWriter { k.writer with
    produce := (k.writer.produce + p.writes) % k.slots
    occupancy := k.writer.occupancy + p.writes
    nextNumber := k.writer.nextNumber + 1
    placement := none }

/-- Clearing an unplaced mark leaves the ring alone (R134). -/
theorem clearMark_ring (w : Writer) (r : Record) : (w.clearMark r).ring = w.ring := by
  cases r <;> rfl

theorem publish_view (k : Core) (p : Placement) : (k.publish p).view = (k.advanced p).view := by
  have marked : ((k.advanced p).setWriter ((k.advanced p).writer.clearMark p.record)).view = (k.advanced p).view :=
    Core.setWriter_view _ _ (clearMark_ring ..)
  show (Core.endStall _).view = _
  rw [Core.endStall_view]
  split
  · exact (Core.raise_view ..).trans marked
  · exact marked

/-- The slots of a published placement are occupied; they were free (R139). -/
theorem Core.RingSound.advanced {k : Core} (s : k.RingSound) {p : Placement} (placing : k.writer.placement = some p) :
    (k.advanced p).RingSound := by
  obtain ⟨-, -, room⟩ := s.placement p placing
  constructor
  · exact room
  · exact s.drain
  · show (k.writer.produce + p.writes) % k.slots = (k.writer.drain + (k.writer.occupancy + p.writes)) % k.slots
    rw [s.produce, Nat.mod_add_mod, Nat.add_assoc]
  · intro q placed
    have ended : (k.advanced p).writer.placement = none := rfl
    rw [ended] at placed
    cases placed
  · intro absent
    obtain ⟨-, -, -, none⟩ := s.absent absent
    rw [none] at placing
    cases placing

theorem Core.RingSound.recordWritten {k : Core} (s : k.RingSound) : k.recordWritten.RingSound := by
  unfold Core.recordWritten
  split
  · exact s
  · rename_i p placing
    dsimp only
    split
    · exact (s.advanced placing).of_view (publish_view k { p with completed := p.completed + 1 })
    · rename_i more
      obtain ⟨start, before, room⟩ := s.placement p placing
      refine ⟨s.bound, s.drain, s.produce, ?_, fun absent => ?_⟩
      · rintro q ⟨⟩
        exact ⟨start, Nat.lt_of_le_of_ne before more, room⟩
      · obtain ⟨-, -, -, none⟩ := s.absent absent
        rw [none] at placing
        cases placing

theorem halt_recordRing (k : Core) : k.halt.recordRing = k.recordRing := by
  unfold Core.halt
  split
  · rfl
  · have halted : (k.setWriter { k.writer with halted := true }).recordRing = k.recordRing := rfl
    exact (recordRing_of_view ((Core.markDirty_view _).trans (Core.endStall_view _))).trans halted

theorem answerCompleted_recordRing (k : Core) (w : AnswerWrite) (r : Completion) :
    (k.answerCompleted w r).recordRing = k.recordRing := by
  have written : ∀ k : Core, k.answerWritten.recordRing = k.recordRing := by
    intro k
    unfold Core.answerWritten
    split <;> rfl
  unfold Core.answerCompleted
  dsimp only
  split
  · rfl
  · split
    · exact halt_recordRing _
    · exact written _
    · rfl
    · rfl

theorem Core.RingSound.recordCompleted {k : Core} (s : k.RingSound) (r : Completion) : (k.recordCompleted r).RingSound := by
  unfold Core.recordCompleted
  split
  · exact s
  · split
    · exact s.recordWritten
    · exact s.of_recordRing (halt_recordRing k)

theorem snapshotCompleted_recordRing (k : Core) (r : Completion) : (k.snapshotCompleted r).recordRing = k.recordRing := by
  have written : k.snapshotWritten.recordRing = k.recordRing := by
    unfold Core.snapshotWritten
    split
    · split <;> rfl
    · rfl
    · rfl
  unfold Core.snapshotCompleted
  split
  · rfl
  · split
    · exact written
    · exact halt_recordRing k

/-! ### Drain (R141) -/

/-- Draining the i oldest slots moves the drain index and the occupancy by the same amount. -/
theorem Core.RingSound.drainMoved {k : Core} (s : k.RingSound) {i : Nat} (bound : i ≤ k.writer.occupancy) :
    (k.drainMoved i).RingSound := by
  constructor
  · show k.writer.occupancy - i ≤ k.slots - 1
    exact (Nat.sub_le ..).trans s.bound
  · exact Nat.mod_lt _ k.slots_pos
  · show k.writer.produce = ((k.writer.drain + i) % k.slots + (k.writer.occupancy - i)) % k.slots
    rw [Nat.mod_add_mod, Nat.add_assoc, Nat.add_sub_cancel' bound]
    exact s.produce
  · intro p placing
    obtain ⟨start, before, room⟩ := s.placement p placing
    exact ⟨start, before, (Nat.add_le_add_right (Nat.sub_le ..) _).trans room⟩
  · intro absent
    obtain ⟨produce, drain, occupancy, none⟩ := s.absent absent
    rw [occupancy, Nat.le_zero] at bound
    refine ⟨produce, ?_, ?_, none⟩
    · show (k.writer.drain + i) % k.slots = 0
      rw [drain, bound, Nat.zero_mod]
    · show k.writer.occupancy - i = 0
      rw [occupancy, Nat.zero_sub]

theorem Core.RingSound.drainRead {k : Core} (s : k.RingSound) (ps : List Place) : (k.drainRead ps).RingSound := by
  have room : k.writer.occupancy < k.slots := Nat.lt_of_le_pred k.slots_pos s.bound
  obtain ⟨i, bound, loop, -, -⟩ := drainLoop_spec (slots := recordSlotsOf ps) s.drain room
  unfold Core.drainRead
  dsimp only
  rw [loop]
  split
  · exact s
  · exact (s.drainMoved bound).of_view (Core.exitTest_view _)

theorem Core.RingSound.hostReadReturned {k : Core} (s : k.RingSound) (ps : List Place) : (k.hostReadReturned ps).RingSound :=
  (s.of_view (k.readRelease_view ps)).drainRead ps

/-! ### Activations (R149, R181) -/

/-- A layout entry that does not count as changed is the same, or invalid before and after. -/
theorem LayoutEntry.eq_or_invalid_of_not_changed {old new : LayoutEntry} (h : old.changed new = false) :
    new = old ∨ (old.valid = false ∧ new.valid = false) := by
  obtain ⟨base, log, valid⟩ := old
  obtain ⟨base', log', valid'⟩ := new
  cases valid <;> cases valid' <;> simp [LayoutEntry.changed] at h ⊢
  obtain ⟨rfl, rfl⟩ := h
  exact ⟨rfl, rfl⟩

/-- A changed record ring starts again from empty; one that is not changed keeps its layout, or stays without one. -/
theorem Core.RingSound.activate {k : Core} (s : k.RingSound) (st : Settings)
    (paths : Option (Vector (Vector (BitVec 12) 32) 32)) : (k.activate st paths).RingSound := by
  have ring := activate_ring k st paths
  have settings : (k.activate st paths).unit.settings = some st := congrArg UnitView.settings (activate_unitView k st paths)
  generalize k.activate st paths = k' at ring settings ⊢
  split at ring
  · exact ringSound_of_empty (congrArg RingView.produce ring) (congrArg RingView.drain ring)
      (congrArg RingView.occupancy ring) (congrArg RingView.placement ring)
  · rename_i kept
    have produce : k'.writer.produce = k.writer.produce := congrArg RingView.produce ring
    have drain : k'.writer.drain = k.writer.drain := congrArg RingView.drain ring
    have occupancy : k'.writer.occupancy = k.writer.occupancy := congrArg RingView.occupancy ring
    have placement : k'.writer.placement = k.writer.placement := congrArg RingView.placement ring
    have entry : k'.recordEntry = look st.layout 33 := by
      unfold Core.recordEntry Core.layoutEntry
      rw [settings]
    rcases LayoutEntry.eq_or_invalid_of_not_changed (Bool.eq_false_of_not_eq_true kept) with same | ⟨absent, -⟩
    · refine s.of_recordRing ?_
      unfold Core.recordRing
      rw [produce, drain, occupancy, placement, entry, same]
      rfl
    · obtain ⟨zero, zero', zero'', none⟩ := s.absent absent
      exact ringSound_of_empty (produce.trans zero) (drain.trans zero') (occupancy.trans zero'') (placement.trans none)

theorem Core.RingSound.fetchCompleted {k : Core} (s : k.RingSound) (page : Nat) (lines : Option (List Block)) :
    (k.fetchCompleted page lines).RingSound := by
  have ended : ∀ {k : Core} (a : Answer), k.RingSound → (k.endRunning a).RingSound := fun a s => s.of_recordRing rfl
  unfold Core.fetchCompleted
  split
  · dsimp only
    split
    · unfold Core.decideApply
      dsimp only
      split
      · exact ended _ s
      · split
        · exact ended _ s
        · split
          · exact ended _ s
          · split
            · exact ended _ s
            · exact ended _ (s.activate ..)
    · exact s.of_recordRing rfl
  · exact s
  · exact s

/-! ### Every operation and every step -/

/-- A write of the placement is granted: its place and its completed writes stay (R138). -/
theorem Core.RingSound.issuePlacement {k : Core} (s : k.RingSound) {p : Placement} (placing : k.writer.placement = some p) :
    (k.setWriter { k.writer with placement := some { p with granted := p.granted + 1 } }).RingSound := by
  refine ⟨s.bound, s.drain, s.produce, ?_, fun absent => ?_⟩
  · rintro q ⟨⟩
    exact s.placement p placing
  · obtain ⟨-, -, -, none⟩ := s.absent absent
    rw [none] at placing
    cases placing

theorem Core.Op.ringSound {page : Nat} {k k' : Core} (h : Core.Op page k k') (s : k.RingSound) : k'.RingSound := by
  cases h with
  | acousticWrite c n w => exact s.of_recordRing (acousticWrite_recordRing k c n w)
  | pressureWrite n w => exact s.of_recordRing (pressureWrite_recordRing k n w)
  | hostAcousticWrite c n =>
    unfold Core.hostAcousticWrite
    split
    · exact s.of_view (k.countAbsorbed_view c _)
    · exact s
  | raiseForeign a => exact s.of_view (k.raiseFault_view _)
  | reportPageWrite b =>
    unfold Core.reportPageWrite
    split
    · split
      · exact s.of_recordRing rfl
      · exact s
    · exact s
    · exact s
  | hostReadReturned ps => exact s.hostReadReturned ps
  | raiseDownstream a x =>
    unfold Core.raiseDownstream
    split
    · exact s.of_view (k.raiseFault_view _)
    · exact s.of_view (k.raiseFault_view _)
    all_goals exact s
  | startFetch =>
    unfold Core.startFetch
    split
    · exact s.of_recordRing rfl
    · exact s
    · exact s
  | answerCompleted w r => exact s.of_recordRing (answerCompleted_recordRing k w r)
  | recordCompleted r => exact s.recordCompleted r
  | snapshotCompleted r => exact s.of_recordRing (snapshotCompleted_recordRing k r)
  | fetchCompleted lines => exact s.fetchCompleted page lines
  | issuePlacement p placing => exact s.issuePlacement placing
  | acknowledge | issueAnswer | issueStatus | issueFetch | issueSnapshot | endStrobe | choose => exact s.of_recordRing rfl
  | considerHead now => exact s.considerHead now
  | stallExpiry now => exact s.of_view (stallExpiry_view k now)
  | takeSample c i t x => exact s.of_view (k.takeSample_view c i t x)

theorem Core.StepsTo.ringSound {page : Nat} {k k' : Core} (h : Core.StepsTo page k k') (s : k.RingSound) : k'.RingSound := by
  rcases h with h | ⟨n, b, pss, rfl⟩
  · induction h with
    | refl => exact s
    | tail _ op ih => exact op.ringSound ih
  · have chosen : (k.setChoices n).RingSound := s.of_recordRing rfl
    exact foldl_rel (R := fun _ k => k.RingSound) (fun _ _ ps s => s.hostReadReturned ps) pss k _ (chosen.takeCommand b)

end Sys2Proof.Machine

open Sys2Proof Sys2Proof.Machine

/-- Settles O57: a step is a reset, a command or a sequence of operations. The ring moves where a placement begins, is written
or published, where slots are drained, and where it is emptied; each keeps it sound. -/
theorem recordRingStaysSound : Obligations.RecordRingStaysSound := by
  intro s t sound h
  rcases step_core h with ⟨_, _, _, _, path, n, e⟩ | e
  · rw [e]
    exact reset_ringSound path n
  · exact e.ringSound sound

end

section
/-! A fault raised (R132), completions of the part's own writes (R139, R145, R148, R149, R168), and completions that are
ignored. -/

namespace Sys2Proof.Machine

/-! ### A fault merged into the FAULT record that is queued (R132) -/

theorem raiseFault_merged {k : Core} {before after : List Record} {r : FaultRecord} (i : FaultInfo)
    (queued : k.writer.queue = before ++ .fault r :: after) (youngest : ∀ x ∈ after, x.isFault = false) :
    (k.raiseFault i).writer = { k.writer with queue := before ++ .fault (r.merge i) :: after } := by
  have merged : mergeYoungest (mergeFault i) k.writer.queue = some (before ++ .fault (r.merge i) :: after) := by
    rw [queued]
    exact mergeYoungest_some (fun x hx => mergeFault_none (youngest x hx)) rfl
  rw [raiseFault_eq, merged]
  rfl

/-- The one bit that a channel adds to a set of channels. -/
theorem chanBit_getLsbD (c j : Chan) : (1#32 <<< c.val).getLsbD j.val = decide (c = j) := by
  have := c.isLt
  have := j.isLt
  rw [BitVec.getLsbD_shiftLeft, BitVec.getLsbD_one, Bool.eq_iff_iff]
  simp only [Bool.and_eq_true, Bool.not_eq_true', decide_eq_true_eq, decide_eq_false_iff_not, Fin.ext_iff]
  omega

theorem merge_furtherChans (r : FaultRecord) (i : FaultInfo) (j : Chan) :
    (r.merge i).furtherChans.getLsbD j.val = (r.furtherChans.getLsbD j.val || decide (i.place = .acoustic j)) := by
  obtain ⟨_, place, _, _, _, _, _, _⟩ := i
  cases place with
  | acoustic c =>
    show (r.furtherChans ||| (1#32 <<< c.val)).getLsbD j.val = _
    rw [BitVec.getLsbD_or, chanBit_getLsbD]
    simp
  | pressure => simp [FaultRecord.merge]
  | elsewhere => simp [FaultRecord.merge]

theorem merge_pressureMark (r : FaultRecord) (i : FaultInfo) :
    (r.merge i).pressureMark = (r.pressureMark || decide (i.place = .pressure)) := by
  obtain ⟨_, place, _, _, _, _, _, _⟩ := i
  cases place <;> simp [FaultRecord.merge]

/-! ### A completion of the part's own (R166, R168) -/

theorem internalDone_present {s t : State} {rest : List Issued} (strap : t.strap = s.strap)
    (linkReset : t.linkReset = s.linkReset) (timeRef : t.timeRef = s.timeRef) (pending : t.pending = s.pending)
    (lastGrant : t.arb.lastGrant = s.arb.lastGrant) (acq : t.acq = s.acq) (host : t.host = s.host)
    (issued : t.issued = rest) : s.InternalDone t.present rest where
  pins := {
    strap := t.present_strap.trans strap
    linkReset := t.present_linkReset.trans linkReset
    timeRef := t.present_timeRef.trans timeRef
    pending := t.present_pending.trans pending
    lastGrant := t.present_lastGrant.trans lastGrant }
  acq := t.present_acq.trans acq
  host := t.present_host.trans host
  issued := t.present_issued.trans issued

/-- The oldest issued request leaves the list, and its completion changes the blocks behind the link alone. -/
theorem internalDone_setCore (s : State) (rest : List Issued) (k : Core) :
    s.InternalDone ((s.setIssued rest).setCore k).present rest :=
  internalDone_present rfl rfl rfl rfl rfl rfl rfl rfl

theorem receive_discarded {s : State} {i : Issued} {rest : List Issued} (issued : s.issued = i :: rest)
    (discarded : i.discarded = true) (r : Completion) : s.receive r = s.setIssued rest := by
  unfold State.receive State.completeFor
  rw [issued]
  dsimp only
  rw [if_pos discarded]

theorem receive_none {s : State} (issued : s.issued = []) (r : Completion) : s.receive r = s := by
  unfold State.receive
  rw [issued]

theorem receive_record {s : State} {i : Issued} {rest : List Issued} (issued : s.issued = i :: rest)
    (owner : i.owner = .record) (fresh : i.discarded = false) (r : Completion) :
    s.receive r = (s.setIssued rest).setCore (s.core.recordCompleted r) := by
  unfold State.receive State.completeFor
  rw [issued]
  dsimp only
  rw [fresh, owner]
  rfl

theorem receive_snapshot {s : State} {i : Issued} {rest : List Issued} (issued : s.issued = i :: rest)
    (owner : i.owner = .snapshot) (fresh : i.discarded = false) (r : Completion) :
    s.receive r = (s.setIssued rest).setCore (s.core.snapshotCompleted r) := by
  unfold State.receive State.completeFor
  rw [issued]
  dsimp only
  rw [fresh, owner]
  rfl

theorem receive_answer {s : State} {i : Issued} {rest : List Issued} {w : AnswerWrite} (issued : s.issued = i :: rest)
    (owner : i.owner = .answer w) (fresh : i.discarded = false) (r : Completion) :
    s.receive r = (s.setIssued rest).setCore (s.core.answerCompleted w r) := by
  unfold State.receive State.completeFor
  rw [issued]
  dsimp only
  rw [fresh, owner]
  rfl

end Sys2Proof.Machine

open Sys2Proof Sys2Proof.Machine

/-- Settles O20: a queue without a FAULT record takes a new one at its end, and the one that a queue holds takes the merge in
its place. -/
theorem faultMerges : Obligations.FaultMerges := by
  intro k i
  refine ⟨by rw [raiseFault_eq], raiseFault_fresh k i, fun before after r queued alone => ?_⟩
  have merged := raiseFault_merged i queued fun x hx => alone x (List.mem_append_right before hx)
  exact ⟨r.merge i, merged, rfl, rfl, rfl, kinds_merge r.furtherKinds i.kind, merge_furtherChans r i, merge_pressureMark r i⟩

/-- Settles O44: a discarded entry leaves the issued list and reaches no owner; with nothing issued there is none. -/
theorem discardedIsIgnored : Obligations.DiscardedIsIgnored := by
  intro r s
  refine ⟨fun i rest issued discarded => ⟨(s.receive r).present, rfl, ?_⟩, fun issued => ⟨(s.receive r).present, rfl, ?_⟩⟩
  · rw [receive_discarded issued discarded]
    exact ⟨internalDone_setCore s rest s.core, State.present_core _⟩
  · rw [receive_none issued]
    exact ⟨internalDone_present rfl rfl rfl rfl rfl rfl rfl issued, State.present_core _⟩

end

section
/-! The last write of a placement publishes its record (R134, R139, R145), and a FAILED write halts the part (R148). -/

namespace Sys2Proof.Machine

/-! ### A stall ends (R145) -/

/-- The mode that the end of a stall leaves: SHEDDING goes on, and else PLACING stands. -/
def WriterMode.resumed : WriterMode → WriterMode
  | .shedding => .shedding
  | .placing | .stalling _ _ => .placing

theorem resumed_of_not_shedding {m : WriterMode} (h : m ≠ .shedding) : m.resumed = .placing := by
  cases m with
  | shedding => exact absurd rfl h
  | placing => rfl
  | stalling => rfl

/-- Beside the mode nothing but the dirty mark is touched. -/
theorem endStall_eq (k : Core) : ∃ d, k.endStall = { k with
    writer := { k.writer with mode := k.writer.mode.resumed }
    unit := { k.unit with dirty := d } } := by
  unfold Core.endStall
  split
  · rename_i mode
    exact ⟨true, by rw [mode]; rfl⟩
  · rename_i mode
    exact ⟨k.unit.dirty, by rw [mode, WriterMode.resumed, ← mode]⟩
  · rename_i mode
    exact ⟨k.unit.dirty, by rw [mode, WriterMode.resumed, ← mode]⟩

theorem endStall_keeps (k : Core) : k.endStall.writer = { k.writer with mode := k.writer.mode.resumed } ∧
    k.endStall.unit.pending = k.unit.pending ∧ k.endStall.streams = k.streams := by
  obtain ⟨d, ended⟩ := endStall_eq k
  rw [ended]
  exact ⟨rfl, rfl, rfl⟩

/-! ### Publication (R134, R139) -/

theorem clearMark_keeps (w : Writer) (r : Record) :
    (w.clearMark r).queue = w.queue ∧ (w.clearMark r).mode = w.mode ∧ (w.clearMark r).loss = w.loss := by
  cases r <;> exact ⟨rfl, rfl, rfl⟩

theorem clearMark_marks (w : Writer) (r : Record) :
    (w.clearMark r).unplacedTrigger = (w.unplacedTrigger && !(r matches .trigger _)) ∧
      (w.clearMark r).unplacedFreeze = (w.unplacedFreeze && !(r matches .freeze _)) ∧
      (w.clearMark r).unplacedCheck = (w.unplacedCheck && !(r matches .check _)) := by
  cases r <;> simp [Writer.clearMark]

/-- The record published, before a stall ends: the ring moved on, the mark of its kind cleared, RECORD raised at or above the
attention mark (R139). -/
def Core.publishedRecord (k : Core) (p : Placement) : Core :=
  let placed := (k.advanced p).setWriter ((k.advanced p).writer.clearMark p.record)
  if k.global.attentionMark ≤ placed.writer.occupancy then placed.raise .record else placed

theorem publish_eq (k : Core) (p : Placement) : k.publish p = (k.publishedRecord p).endStall := rfl

theorem publishedRecord_keeps (k : Core) (p : Placement) :
    (k.publishedRecord p).writer = (k.advanced p).writer.clearMark p.record ∧ (k.publishedRecord p).streams = k.streams ∧
      (k.publishedRecord p).unit.pending =
        if k.global.attentionMark ≤ k.writer.occupancy + p.writes then k.unit.pending ||| 1 else k.unit.pending := by
  have occupied : ((k.advanced p).writer.clearMark p.record).occupancy = k.writer.occupancy + p.writes :=
    congrArg RingView.occupancy (clearMark_ring (k.advanced p).writer p.record)
  unfold Core.publishedRecord
  dsimp only
  rw [Core.setWriter_writer, occupied]
  split <;> exact ⟨rfl, rfl, rfl⟩

/-- What publication leaves in the record writer, the pending causes and the streams. -/
theorem publish_spec (k : Core) (p : Placement) :
    (k.publish p).writer = { (k.advanced p).writer.clearMark p.record with mode := k.writer.mode.resumed } ∧
      (k.publish p).streams = k.streams ∧
      (k.publish p).unit.pending =
        if k.global.attentionMark ≤ k.writer.occupancy + p.writes then k.unit.pending ||| 1 else k.unit.pending := by
  obtain ⟨writer, streams, pending⟩ := publishedRecord_keeps k p
  obtain ⟨writer', pending', streams'⟩ := endStall_keeps (k.publishedRecord p)
  obtain ⟨-, mode, -⟩ := clearMark_keeps (k.advanced p).writer p.record
  rw [publish_eq]
  refine ⟨?_, streams'.trans streams, pending'.trans pending⟩
  rw [writer', writer, mode]
  rfl

theorem recordWritten_counted {k : Core} {p : Placement} (placing : k.writer.placement = some p)
    (more : p.completed + 1 ≠ p.writes) :
    k.recordWritten = k.setWriter { k.writer with placement := some { p with completed := p.completed + 1 } } := by
  unfold Core.recordWritten
  rw [placing]
  exact if_neg more

theorem recordWritten_last {k : Core} {p : Placement} (placing : k.writer.placement = some p)
    (last : p.completed + 1 = p.writes) : k.recordWritten = k.publish { p with completed := p.completed + 1 } := by
  unfold Core.recordWritten
  rw [placing]
  exact if_pos last

/-- A completion of a write of the record writer reaches the blocks behind the link alone. -/
theorem recordWriteCompletion_core {s : State} {i : Issued} {rest : List Issued} (issued : s.issued = i :: rest)
    (owner : i.owner = .record) (fresh : i.discarded = false) (r : Completion) :
    ∃ t, exec (.recordWriteCompletion r) s = .next t ∧ s.InternalDone t rest ∧ t.core = s.core.recordCompleted r := by
  refine ⟨(s.receive r).present, rfl, ?_⟩
  rw [receive_record issued owner fresh]
  exact ⟨internalDone_setCore s rest _, State.present_core _⟩

/-! ### A FAILED write (R148) -/

theorem halt_eq {k : Core} (running : k.writer.halted = false) : k.halt = { k with
    writer := { k.writer with halted := true, mode := k.writer.mode.resumed }
    unit := { k.unit with dirty := true } } := by
  obtain ⟨d, ended⟩ := endStall_eq (k.setWriter { k.writer with halted := true })
  unfold Core.halt
  rw [if_neg (by rw [running]; nofun), ended]
  rfl

theorem recordCompleted_failed {k : Core} (running : k.writer.halted = false) : k.recordCompleted .failed = k.halt :=
  if_neg (by rw [running]; nofun)

theorem snapshotCompleted_failed {k : Core} (running : k.writer.halted = false) : k.snapshotCompleted .failed = k.halt :=
  if_neg (by rw [running]; nofun)

/-- The answer and status writer is free to present again, and the part is halted. -/
theorem answerCompleted_failed {k : Core} (running : k.writer.halted = false) (w : AnswerWrite) :
    k.answerCompleted w .failed = (k.setUnit { k.unit with awaiting := false }).halt :=
  if_neg (by rw [Core.setUnit_writer, running]; nofun)

theorem recordCompleted_done {k : Core} (running : k.writer.halted = false) (lines : Vector Block 8) :
    k.recordCompleted (.done lines) = k.recordWritten :=
  if_neg (by rw [running]; nofun)

/-- The part has halted, whether or not the writer of answers was awaiting a completion. -/
def Core.haltedWith (k : Core) (awaiting : Bool) : Core :=
  { k with
    writer := { k.writer with halted := true, mode := k.writer.mode.resumed }
    unit := { k.unit with dirty := true, awaiting := awaiting } }

/-- A FAILED write of each of the three owners halts the part; only the writer of answers waits for it (R148). -/
theorem failed_halts {s : State} {i : Issued} {rest : List Issued} {c : Instr} (issued : s.issued = i :: rest)
    (fresh : i.discarded = false) (running : s.core.writer.halted = false)
    (row : (c = .recordWriteCompletion .failed ∧ i.owner = .record) ∨
      (c = .snapshotWriteCompletion .failed ∧ i.owner = .snapshot) ∨
      (c = .answerWriteCompletion .failed ∧ ∃ w, i.owner = .answer w)) :
    ∃ awaiting, exec c s = .next ((s.setIssued rest).setCore (s.core.haltedWith awaiting)).present := by
  rcases row with ⟨rfl, owner⟩ | ⟨rfl, owner⟩ | ⟨rfl, w, owner⟩
  · refine ⟨s.core.unit.awaiting, ?_⟩
    show Host.Outcome.next (s.receive .failed).present = _
    rw [receive_record issued owner fresh, recordCompleted_failed running, halt_eq running]
    rfl
  · refine ⟨s.core.unit.awaiting, ?_⟩
    show Host.Outcome.next (s.receive .failed).present = _
    rw [receive_snapshot issued owner fresh, snapshotCompleted_failed running, halt_eq running]
    rfl
  · refine ⟨false, ?_⟩
    show Host.Outcome.next (s.receive .failed).present = _
    rw [receive_answer issued owner fresh, answerCompleted_failed running,
      halt_eq (k := s.core.setUnit { s.core.unit with awaiting := false }) running]
    rfl

end Sys2Proof.Machine

open Sys2Proof Sys2Proof.Machine

/-- Settles O38: before its last write a placement counts the completion, and with the last the record is published. -/
theorem recordPublished : Obligations.RecordPublished := by
  intro lines s i rest p issued owner fresh running placing
  obtain ⟨t, ht, done, core⟩ := recordWriteCompletion_core issued owner fresh (.done lines)
  rw [recordCompleted_done running] at core
  refine ⟨t, ht, done, fun more => ?_, fun last => ?_⟩
  · rw [core, recordWritten_counted placing more]
    rfl
  obtain ⟨writer, streams, pending⟩ := publish_spec s.core { p with completed := p.completed + 1 }
  rw [recordWritten_last placing last] at core
  rw [← core] at writer streams pending
  have ring := clearMark_ring (s.core.advanced { p with completed := p.completed + 1 }).writer p.record
  obtain ⟨queue, -, loss⟩ := clearMark_keeps (s.core.advanced { p with completed := p.completed + 1 }).writer p.record
  obtain ⟨trigger, freeze, check⟩ := clearMark_marks (s.core.advanced { p with completed := p.completed + 1 }).writer p.record
  have produce : t.core.writer.produce = (s.core.writer.produce + p.writes) % s.core.slots := by
    rw [writer]
    exact congrArg RingView.produce ring
  have occupancy : t.core.writer.occupancy = s.core.writer.occupancy + p.writes := by
    rw [writer]
    exact congrArg RingView.occupancy ring
  have mode : t.core.writer.mode = s.core.writer.mode.resumed := by rw [writer]
  refine ⟨?_, ?_, ?_, ?_, ?_, ?_, ?_, ?_, fun high => ?_, fun low => ?_, fun shedding => ?_, fun other => ?_, ?_, streams⟩
  · rw [writer]
    exact congrArg RingView.placement ring
  · rw [writer]
    exact queue
  · rw [produce, Nat.add_assoc]
    rfl
  · rw [occupancy, Nat.add_assoc]
    rfl
  · rw [writer]
    exact congrArg RingView.nextNumber ring
  · rw [writer]
    exact trigger
  · rw [writer]
    exact freeze
  · rw [writer]
    exact check
  · rw [occupancy] at high
    exact pending.trans (if_pos high)
  · rw [occupancy] at low
    exact pending.trans (if_neg (Nat.not_le.2 low))
  · rw [mode, shedding]
    rfl
  · rw [mode, resumed_of_not_shedding other]
  · rw [writer]
    exact loss

/-- Settles O40: whichever of the three owners the write has, its failure halts the part and moves nothing else. -/
theorem internalFailureHalts : Obligations.InternalFailureHalts := by
  intro s i rest c issued fresh running row
  obtain ⟨awaiting, halts⟩ := failed_halts issued fresh running row
  refine ⟨_, halts, internalDone_setCore s rest _, ?_⟩
  unfold State.haltLine
  rw [State.present_core, State.setCore_core]
  refine ⟨rfl, rfl, fun shedding => ?_, fun other => resumed_of_not_shedding other, rfl, rfl, rfl, rfl, rfl, rfl, rfl, rfl, rfl,
    rfl, rfl, rfl, rfl⟩
  unfold Core.haltedWith
  rw [shedding]
  rfl

end

section
/-! The head record considered (R137, R138, R142, R144), and a stall that reaches its limit (R142, R143, R145). -/

namespace Sys2Proof.Machine

/-! ### SHEDDING entered (R142, R143) -/

theorem shedHeads_of_not_shedding {k : Core} (h : k.writer.mode ≠ .shedding) : k.shedHeads = k := if_neg h

theorem shedHeads_queue {k : Core} (h : k.writer.mode = .shedding) :
    k.shedHeads.writer.queue = k.writer.queue.dropWhile Record.sheddable := by
  unfold Core.shedHeads
  rw [if_pos h]
  rfl

/-- Discards are counted by kind, not as expiries (R146). -/
theorem discard_expiries (k : Core) (r : Record) (onArrival : Bool) :
    (k.discard r onArrival).writer.loss.expiries = k.writer.loss.expiries := by
  have counted : ((k.noteLoss k.writer.loss).countKind r).expiries = k.writer.loss.expiries := by
    cases r <;> rfl
  unfold Core.discard
  cases onArrival <;> exact counted

theorem shedHeads_expiries (k : Core) : k.shedHeads.writer.loss.expiries = k.writer.loss.expiries := by
  unfold Core.shedHeads
  split
  · exact foldl_keeps (fun k : Core => k.writer.loss.expiries) (fun k r => discard_expiries k r false) _ k
  · rfl

/-- Above the resume mark the exit test leaves SHEDDING as it is (R143). -/
theorem exitTest_above {k : Core} (high : k.global.resumeMark < k.writer.occupancy) : k.exitTest = k :=
  if_neg fun h => Nat.not_le.2 high h.2

/-- SHEDDING stands above the resume mark, with the sheddable heads gone. -/
theorem enterShedding_above {k : Core} (high : k.global.resumeMark < k.writer.occupancy) :
    k.enterShedding.writer.mode = .shedding ∧ k.enterShedding.writer.loss.expiries = k.writer.loss.expiries ∧
      k.enterShedding.writer.queue = k.writer.queue.dropWhile Record.sheddable := by
  have stays : ((k.setMode .shedding).raise .loss).exitTest = (k.setMode .shedding).raise .loss := exitTest_above high
  unfold Core.enterShedding
  rw [stays]
  exact ⟨shedHeads_mode _, shedHeads_expiries _, shedHeads_queue rfl⟩

/-- At or below the resume mark it is left at once (R143). -/
theorem enterShedding_below {k : Core} (low : k.writer.occupancy ≤ k.global.resumeMark) :
    k.enterShedding.writer.mode = .placing := by
  have leaves : ((k.setMode .shedding).raise .loss).exitTest.writer.mode = .placing := exitTest_placing rfl low
  exact (shedHeads_mode _).trans leaves

/-- LOSS stands in a set of causes to which it has been added. -/
theorem enterShedding_loss (k : Core) : k.enterShedding.unit.pending &&& 128 = 128 := by
  rw [enterShedding_pending]
  exact byte128 _

/-! ### The head record (R137, R138, R144) -/

theorem placeable_iff (k : Core) (r : Record) :
    k.placeable r = true ↔ r.span + k.padFor r.span + (if r.sheddable then 12 else 0) ≤ k.freeSlots := by
  unfold Core.placeable Core.need
  split
  · exact decide_eq_true_iff
  · exact decide_eq_true_iff

/-- The conditions under which the head record is considered at all, outside SHEDDING. -/
structure Core.Considers (k : Core) : Prop where
  mode    : k.writer.mode ≠ .shedding
  free    : k.writer.placement = none
  running : k.writer.halted = false
  ring    : k.recordEntry.valid = true

theorem considerHead_eq {k : Core} (h : k.Considers) {r : Record} {rest : List Record} (queue : k.writer.queue = r :: rest)
    (now : BitVec 32) :
    k.considerHead now = if k.placeable r then k.beginPlacement r rest else k.headBlocked r rest now := by
  obtain ⟨mode, free, running, ring⟩ := h
  unfold Core.considerHead
  rw [shedHeads_of_not_shedding mode]
  dsimp only
  rw [if_neg (by simp [free, running, ring]), queue]

theorem beginPlacement_eq {k : Core} (mode : k.writer.mode ≠ .shedding) (r : Record) (rest : List Record) :
    k.beginPlacement r rest = { k with writer := { k.writer with
      queue := rest
      placement := some { record := r, number := k.writer.nextNumber, start := k.writer.produce, pad := k.padFor r.span,
                          granted := 0, completed := 0 } } } :=
  shedHeads_of_not_shedding mode

theorem headBlocked_stall {k : Core} (mode : k.writer.mode = .placing) (policy : k.global.policy = .stall) (r : Record)
    (rest : List Record) (now : BitVec 32) : k.headBlocked r rest now = k.beginStall now := by
  unfold Core.headBlocked
  rw [mode, policy]

theorem headBlocked_shed {k : Core} (mode : k.writer.mode = .placing) (policy : k.global.policy = .shed) (r : Record)
    (rest : List Record) (now : BitVec 32) :
    k.headBlocked r rest now = if r.sheddable then ((k.setQueue rest).discard r false).enterShedding else k := by
  unfold Core.headBlocked
  rw [mode, policy]

theorem headBlocked_elsewhere {k : Core} (mode : k.writer.mode ≠ .placing) (r : Record) (rest : List Record)
    (now : BitVec 32) : k.headBlocked r rest now = k := by
  unfold Core.headBlocked
  split
  · rename_i placing
    exact absurd placing mode
  · rfl
  · rfl

/-- What a consideration or an expiry leaves of the link: the reading of the time reference alone is new. -/
theorem timed_link (s : State) (time : BitVec 32) (k : Core) {t : State}
    (h : t = ((s.setTimeRef time).setCore k).present) :
    t.timeRef = time ∧ t.acq = s.acq ∧ t.host = s.host ∧ t.issued = s.issued ∧ t.core = k := by
  rw [h]
  exact ⟨State.present_timeRef _, State.present_acq _, State.present_host _, State.present_issued _, State.present_core _⟩

/-! ### The limit of a stall (R144, R145) -/

/-- A stall at its limit before SHEDDING is entered: the expiry counted, a sheddable head discarded (log 28). -/
def Core.limitReached (k : Core) : Core :=
  let k := k.setWriter { k.writer with loss := { k.writer.loss with expiries := satInc k.writer.loss.expiries } }
  match k.writer.queue with
  | [] => k
  | r :: rest => if r.sheddable then (k.setQueue rest).discard r false else k

theorem expireStall_eq (k : Core) : k.expireStall = k.limitReached.enterShedding := rfl

theorem stallExpiry_eq {k : Core} {start : BitVec 32} {limit : Nat} (stalling : k.writer.mode = .stalling start limit)
    (now : BitVec 32) : k.stallExpiry now = if limit ≤ (now - start).toNat then k.limitReached.enterShedding else k := by
  unfold Core.stallExpiry
  rw [stalling]
  rfl

/-- The head that is discarded is one that SHEDDING discards. -/
theorem limitReached_spec (k : Core) :
    k.limitReached.writer.occupancy = k.writer.occupancy ∧ k.limitReached.global = k.global ∧
      k.limitReached.writer.loss.expiries = min (k.writer.loss.expiries + 1) 65535 ∧
      k.limitReached.writer.queue.dropWhile Record.sheddable = k.writer.queue.dropWhile Record.sheddable := by
  unfold Core.limitReached
  dsimp only
  split
  · exact ⟨rfl, rfl, rfl, rfl⟩
  · rename_i r rest queue
    rw [Core.setWriter_writer] at queue
    dsimp only at queue
    split
    · rename_i sheddable
      refine ⟨rfl, rfl, discard_expiries .., ?_⟩
      rw [queue, List.dropWhile_cons, if_pos sheddable]
      rfl
    · exact ⟨rfl, rfl, rfl, rfl⟩

end Sys2Proof.Machine

open Sys2Proof Sys2Proof.Machine

/-- Settles O45: the head is placed where it fits, and else the mode, the policy and its class decide. -/
theorem headIsConsidered : Obligations.HeadIsConsidered := by
  intro time s r rest queue mode free running valid left pad room fits
  have considered := considerHead_eq ⟨mode, free, running, valid⟩ queue time
  have placeable : s.core.placeable r = true ↔ fits := placeable_iff s.core r
  obtain ⟨timeRef, acq, host, issued, core⟩ := timed_link s time (s.core.considerHead time) rfl
  refine ⟨_, rfl, timeRef, acq, host, issued, fun fit => ?_, fun blocked placing policy => ?_,
    fun blocked placing policy sheddable => ?_, fun blocked other => ?_⟩
  · rw [core, considered, if_pos (placeable.2 fit), beginPlacement_eq mode]
    rfl
  all_goals rw [core, considered, if_neg (mt placeable.1 blocked)]
  · rw [headBlocked_stall placing policy]
    exact ⟨rfl, queue, rfl, rfl, rfl⟩
  · rw [headBlocked_shed placing policy, if_pos sheddable]
    refine ⟨enterShedding_loss _, fun high => ?_, fun low => enterShedding_below low⟩
    obtain ⟨shedding, -, shed⟩ := enterShedding_above (k := (s.core.setQueue rest).discard r false) high
    exact ⟨shedding, shed⟩
  · rcases other with ⟨placing, policy, kept⟩ | elsewhere
    · rw [headBlocked_shed placing policy, if_neg (by rw [kept]; nofun)]
    · exact headBlocked_elsewhere elsewhere r rest time

/-- Settles O46: before the limit nothing but the reading happens; at the limit SHEDDING is entered, and the exit test
follows. -/
theorem stallExpires : Obligations.StallExpires := by
  intro time start limit s stalling
  have expiry := stallExpiry_eq stalling time
  obtain ⟨timeRef, acq, host, issued, core⟩ := timed_link s time (s.core.stallExpiry time) rfl
  obtain ⟨occupancy, global, expiries, heads⟩ := limitReached_spec s.core
  refine ⟨_, rfl, timeRef, acq, host, issued, fun early => ?_, fun due => ?_⟩
  · rw [core, expiry, if_neg (Nat.not_le.2 early)]
  · rw [core, expiry, if_pos due, ← occupancy, ← global, ← expiries, ← heads]
    refine ⟨?_, enterShedding_loss _, enterShedding_above, enterShedding_below⟩
    unfold Core.acquisitionOpen
    rcases enterShedding_mode s.core.limitReached with mode | mode <;> rw [mode]

end

section
/-! The writes of a placement, in their order: PAD slots, the record's slots from 1 up, slot 0 (R137, R138). -/

namespace Sys2Proof.Machine

theorem write_pad {p : Placement} {i : Nat} (h : i < p.pad) : (p.write i).1 = p.start + i := by
  unfold Placement.write
  rw [if_pos h]

theorem write_continuation {p : Placement} {i : Nat} (past : p.pad ≤ i) (more : i + 1 < p.writes) :
    (p.write i).1 = p.base + (i - p.pad) + 1 := by
  unfold Placement.write
  rw [if_neg (Nat.not_lt.2 past), if_pos more]

theorem write_last {p : Placement} {i : Nat} (past : p.pad ≤ i) (last : p.writes ≤ i + 1) : (p.write i).1 = p.base := by
  unfold Placement.write
  rw [if_neg (Nat.not_lt.2 past), if_neg (Nat.not_lt.2 last)]

/-- Slot 0 is the last write, and waits until the others have completed (R138). -/
theorem completed_of_mayPresent_last {p : Placement} (last : p.granted + 1 = p.writes) (h : p.mayPresent = true) :
    p.completed = p.granted := by
  simpa [Placement.mayPresent, last] using h

/-- Where a placement lies in a ring: it starts at a slot, and its PAD, if it has one, ends with the ring. -/
structure Placement.Fits (p : Placement) (slots : Nat) : Prop where
  start : p.start < slots
  whole : p.pad = 0 → p.start + p.record.span ≤ slots
  pad   : p.pad ≠ 0 → p.start + p.pad = slots
  span  : 1 ≤ p.record.span ∧ p.record.span < slots

/-- The record begins after the PAD, at the ring's start when there is one. -/
theorem Placement.Fits.base {p : Placement} {slots : Nat} (h : p.Fits slots) : p.base = (p.start + p.pad) % slots := by
  unfold Placement.base
  split
  · rename_i noPad
    rw [noPad, Nat.add_zero, Nat.mod_eq_of_lt h.start]
  · rename_i padded
    rw [h.pad padded, Nat.mod_self]

/-- Every slot of the record lies in the ring behind its base. -/
theorem Placement.Fits.base_add_span_le {p : Placement} {slots : Nat} (h : p.Fits slots) :
    p.base + p.record.span ≤ slots := by
  unfold Placement.base
  split
  · rename_i noPad
    exact h.whole noPad
  · rw [Nat.zero_add]
    exact h.span.2.le

theorem Placement.Fits.write_lt {p : Placement} {slots : Nat} (h : p.Fits slots) (i : Nat) : (p.write i).1 < slots := by
  have room := h.base_add_span_le
  obtain ⟨one, -⟩ := h.span
  by_cases pad : i < p.pad
  · rw [write_pad pad, ← h.pad (Nat.ne_zero_of_lt pad)]
    exact Nat.add_lt_add_left pad _
  · by_cases more : i + 1 < p.writes
    · rw [write_continuation (Nat.not_lt.1 pad) more]
      unfold Placement.writes at more
      omega
    · rw [write_last (Nat.not_lt.1 pad) (Nat.not_lt.1 more)]
      omega

/-- The continuation slots follow the base, counted around the ring from the start of the placement. -/
theorem Placement.Fits.write_continuation_mod {p : Placement} {slots : Nat} (h : p.Fits slots) {i : Nat} (past : p.pad ≤ i)
    (more : i + 1 < p.writes) : (p.write i).1 = (p.start + i + 1) % slots := by
  have inRing := h.write_lt i
  rw [write_continuation past more, h.base] at inRing ⊢
  rw [← Nat.mod_eq_of_lt inRing, Nat.add_assoc, Nat.mod_add_mod]
  congr 1
  omega

/-- A record that does not fit before the ring's end has the slots there as its PAD, and any other has none (R137). -/
theorem padFor_cases (k : Core) (n : Nat) :
    (k.slots - k.writer.produce < n ∧ k.padFor n = k.slots - k.writer.produce) ∨
      (n ≤ k.slots - k.writer.produce ∧ k.padFor n = 0) := by
  by_cases short : k.slots - k.writer.produce < n
  · exact .inl ⟨short, if_pos short⟩
  · exact .inr ⟨Nat.not_lt.1 short, if_neg short⟩

theorem padFor_fits {k : Core} (r : Record) (produce : k.writer.produce < k.slots) (slots : 4 ≤ k.slots) (number : Num)
    (granted completed : Nat) :
    Placement.Fits { record := r, number := number, start := k.writer.produce, pad := k.padFor r.span, granted := granted,
                     completed := completed } k.slots := by
  obtain ⟨one, three⟩ := r.span_bounds
  have inRing : 1 ≤ r.span ∧ r.span < k.slots := by omega
  rcases padFor_cases k r.span with ⟨-, pad⟩ | ⟨whole, noPad⟩
  · rw [pad]
    exact ⟨produce, fun zero => absurd zero (Nat.sub_ne_zero_of_lt produce), fun _ => Nat.add_sub_cancel' produce.le, inRing⟩
  · rw [noPad]
    exact ⟨produce, fun _ => Nat.add_le_of_le_sub' produce.le whole, fun padded => absurd rfl padded, inRing⟩

end Sys2Proof.Machine

open Sys2Proof Sys2Proof.Machine

/-- Settles O35: the placement that begins fits the ring, and its writes, by their places in the order, are the PAD, the
continuation slots and slot 0. -/
theorem slotZeroComesLast : Obligations.SlotZeroComesLast := by
  intro k r rest mode produce slots
  have fits := padFor_fits r produce slots k.writer.nextNumber 0 0
  rw [beginPlacement_eq mode]
  generalize hp : Placement.mk r k.writer.nextNumber k.writer.produce (k.padFor r.span) 0 0 = p at fits
  obtain ⟨one, -⟩ := fits.span
  refine ⟨p, rfl, ?_, ?_, ?_, fun i _ => fits.write_lt i, fun i pad => ?_, ?_, fun i past more => ?_,
    fun q record pad last => completed_of_mayPresent_last last⟩
  · rw [← hp]
  · rw [← hp]
  · rw [← hp]
    exact Nat.add_comm ..
  · rw [write_pad pad, ← hp]
  · unfold Placement.writes
    rw [write_last (by omega) (by unfold Placement.writes; omega), fits.base, ← hp]
  · rw [fits.write_continuation_mod past more, ← hp]

end

section
/-! The memory arbiter (R149, R166 to R170): what stands presented, which candidate a grant takes, and what an internal grant
issues. -/

namespace Sys2Proof.Machine

/-! ### What stands presented (R168, R170) -/

/-- The arbiter as the presentations of a step leave it, before the round and the wait count follow. -/
def State.presentations (s : State) : Arbiter :=
  { s.arb with
    answer := s.replyPresented
    engine := s.core.enginePresents
    record := s.core.recordPresents && s.arb.abandoned.isNone
    abandoned := s.abandonedPresented }

theorem settle_eq (a : Arbiter) (b : Bool) :
    a.settle b = { a with waitCount := if (b && a.round.isEmpty) || a.candidates.isEmpty then 0 else a.waitCount } := by
  unfold Arbiter.settle
  split
  · rfl
  · rfl

/-- The arbiter after the presentations of a step. -/
theorem present_arb {s : State} (line : s.linkReset = false) :
    s.present.arb = { s.presentations with
      round := s.arb.round.filter s.presentations.presents
      waitCount :=
        if (!s.arb.round.isEmpty && (s.arb.round.filter s.presentations.presents).isEmpty) ||
          s.presentations.candidates.isEmpty then 0 else s.arb.waitCount } := by
  unfold State.present
  rw [if_neg (by rw [line]; nofun)]
  exact settle_eq s.presentations.pruneRound _

/-- With no round under way the wait count follows the candidates alone. -/
theorem present_arb_of_no_round {s : State} (line : s.linkReset = false) (round : s.arb.round = []) :
    s.present.arb = { s.presentations with
      round := []
      waitCount := if s.presentations.candidates = [] then 0 else s.arb.waitCount } := by
  rw [present_arb line, round]
  simp only [List.isEmpty_nil, List.filter_nil, Bool.not_true, Bool.false_and, Bool.false_or, List.isEmpty_iff]

/-- A state in which every request that can be presented stands presented. -/
structure State.Presented (s : State) : Prop where
  line          : s.linkReset = false
  presentations : s.presentations = s.arb
  round         : ∀ r ∈ s.arb.round, s.arb.presents r = true
  waitCount     : s.arb.candidates = [] → s.arb.waitCount = 0

theorem presented_of_present_eq {s : State} (h : s.present = s) (line : s.linkReset = false) : s.Presented := by
  have arb := (present_arb line).symm.trans (congrArg State.arb h)
  have answer : s.replyPresented = s.arb.answer := congrArg Arbiter.answer arb
  have engine : s.core.enginePresents = s.arb.engine := congrArg Arbiter.engine arb
  have record : (s.core.recordPresents && s.arb.abandoned.isNone) = s.arb.record := congrArg Arbiter.record arb
  have abandoned : s.abandonedPresented = s.arb.abandoned := congrArg Arbiter.abandoned arb
  have same : s.presentations = s.arb := by
    unfold State.presentations
    rw [answer, engine, record, abandoned]
  rw [same] at arb
  refine ⟨line, same, fun r hr => ?_, fun none => ?_⟩
  · have round : s.arb.round.filter s.arb.presents = s.arb.round := congrArg Arbiter.round arb
    rw [← round] at hr
    exact (List.mem_filter.1 hr).2
  · have wait := congrArg Arbiter.waitCount arb
    dsimp only at wait
    rw [none, List.isEmpty_nil, Bool.or_true, if_pos rfl] at wait
    exact wait.symm

theorem mem_candidates {a : Arbiter} {r : Requester} : r ∈ a.candidates ↔ a.presents r = true := by
  unfold Arbiter.candidates
  rw [List.mem_filter]
  cases r <;> simp

theorem candidates_nodup (a : Arbiter) : a.candidates.Nodup := List.Nodup.filter _ (by decide)

theorem grant_eq {s : State} (h : s.present = s) (line : s.linkReset = false) (room : s.issued.length < 16) :
    s.grant = s.choose := by
  unfold State.grant
  dsimp only
  rw [h, line, if_neg (by simpa using room)]

theorem memoryGrant_eq {s : State} (h : s.present = s) (line : s.linkReset = false) (room : s.issued.length < 16) :
    exec .memoryGrant s = .next s.choose.present := by
  show Host.Outcome.next s.grant.present = _
  rw [grant_eq h line room]

/-! ### An upstream grant (R169) -/

theorem isWaiting_iff {e : Accepted} : e.isWaiting = true ↔ e.cond = .waiting := beq_iff_eq

theorem issueOldest_split {before after : List Accepted} {e : Accepted} (waits : e.cond = .waiting)
    (older : ∀ x ∈ before, x.cond ≠ .waiting) :
    issueOldest (before ++ e :: after) = before ++ { e with cond := .issued } :: after := by
  induction before with
  | nil => exact if_pos (isWaiting_iff.2 waits)
  | cons x before ih =>
    have first : ¬x.isWaiting = true := fun h => older x List.mem_cons_self (isWaiting_iff.1 h)
    rw [List.cons_append, List.cons_append, ← ih fun y hy => older y (List.mem_cons_of_mem x hy)]
    exact if_neg first

theorem find_oldestWaiting {before after : List Accepted} {e : Accepted} (waits : e.cond = .waiting)
    (older : ∀ x ∈ before, x.cond ≠ .waiting) : (before ++ e :: after).find? Accepted.isWaiting = some e := by
  rw [List.find?_append, List.find?_eq_none.2 fun x hx h => older x hx (isWaiting_iff.1 h), Option.none_or,
    List.find?_cons_of_pos (isWaiting_iff.2 waits)]

theorem hasWaiting_iff {s : State} {p : Port} : s.hasWaiting p = true ↔ ∃ e ∈ (s.port p).accepted, e.cond = .waiting := by
  unfold State.hasWaiting
  rw [List.any_eq_true]
  exact exists_congr fun e => and_congr_right fun _ => isWaiting_iff

/-- The port that alone has a candidate, or that was not granted last, is the one that is granted (R169). -/
theorem upstreamChoice_eq {s : State} {p : Port} (has : s.hasWaiting p = true)
    (turn : (∀ q, q ≠ p → s.hasWaiting q = false) ∨ s.arb.lastGrant ≠ p) : s.upstreamChoice = some p := by
  unfold State.upstreamChoice
  cases p with
  | acquisition =>
    rw [has]
    rcases turn with alone | turn
    · rw [alone .host nofun]
    · cases s.hasWaiting .host with
      | false => rfl
      | true => cases last : s.arb.lastGrant with
        | acquisition => exact absurd last turn
        | host => rfl
  | host =>
    rw [has]
    rcases turn with alone | turn
    · rw [alone .acquisition nofun]
    · cases s.hasWaiting .acquisition with
      | false => rfl
      | true => cases last : s.arb.lastGrant with
        | acquisition => rfl
        | host => exact absurd last turn

theorem upstreamChoice_none {s : State} (h : ∀ p, s.hasWaiting p = false) : s.upstreamChoice = none := by
  unfold State.upstreamChoice
  rw [h, h]

theorem upstreamChoice_isSome {s : State} {p : Port} (h : s.hasWaiting p = true) : ∃ q, s.upstreamChoice = some q := by
  unfold State.upstreamChoice
  cases p <;> rw [h]
  · cases s.hasWaiting .host <;> [skip; cases s.arb.lastGrant] <;> exact ⟨_, rfl⟩
  · cases s.hasWaiting .acquisition <;> [skip; cases s.arb.lastGrant] <;> exact ⟨_, rfl⟩

/-- The oldest waiting entry of a port has been issued; `wait` is the wait count then. -/
def State.issuedUpstream (s : State) (p : Port) (es : List Accepted) (e : Accepted) (wait : Nat) : State :=
  ((s.setPort p { s.port p with accepted := es }).issue (.port p) e.request).setArb
    { s.arb with lastGrant := p, waitCount := wait }

theorem State.issuedUpstream_beside (s : State) (p : Port) (es : List Accepted) (e : Accepted) (wait : Nat) :
    (s.issuedUpstream p es e wait).core = s.core ∧ (s.issuedUpstream p es e wait).linkReset = s.linkReset ∧
      (s.issuedUpstream p es e wait).strap = s.strap ∧ (s.issuedUpstream p es e wait).timeRef = s.timeRef ∧
      (s.issuedUpstream p es e wait).pending = s.pending := by
  cases p <;> exact ⟨rfl, rfl, rfl, rfl, rfl⟩

theorem State.issuedUpstream_ports (s : State) (p : Port) (es : List Accepted) (e : Accepted) (wait : Nat) :
    (s.issuedUpstream p es e wait).port p = { s.port p with accepted := es } ∧
      (∀ q, q ≠ p → (s.issuedUpstream p es e wait).port q = s.port q) ∧
      (s.issuedUpstream p es e wait).issued = s.issued ++ [{ owner := .port p, request := e.request, discarded := false }] := by
  have ports : ∀ q, (s.issuedUpstream p es e wait).port q = (s.setPort p { s.port p with accepted := es }).port q := by
    intro q
    cases q <;> rfl
  refine ⟨(ports p).trans (State.port_setPort_self ..), fun q other => (ports q).trans ?_, by cases p <;> rfl⟩
  rw [State.port_setPort, if_neg (Ne.symm other)]

theorem grantUpstream_eq {s : State} {p : Port} {before after : List Accepted} {e : Accepted}
    (accepted : (s.port p).accepted = before ++ e :: after) (waits : e.cond = .waiting)
    (older : ∀ x ∈ before, x.cond ≠ .waiting) :
    s.grantUpstream p = s.issuedUpstream p (before ++ { e with cond := .issued } :: after) e s.arb.waitCount := by
  unfold State.grantUpstream
  dsimp only
  rw [accepted, find_oldestWaiting waits older, issueOldest_split waits older]
  rfl

theorem choose_upstream {s : State} {p : Port} {before after : List Accepted} {e : Accepted} (round : s.arb.round = [])
    (turn : s.arb.candidates = [] ∨ s.arb.waitCount < s.core.global.tenure) (chosen : s.upstreamChoice = some p)
    (accepted : (s.port p).accepted = before ++ e :: after) (waits : e.cond = .waiting)
    (older : ∀ x ∈ before, x.cond ≠ .waiting) :
    s.choose = s.issuedUpstream p (before ++ { e with cond := .issued } :: after) e
      (if s.arb.candidates = [] then s.arb.waitCount else s.arb.waitCount + 1) := by
  have granted := grantUpstream_eq accepted waits older
  unfold State.choose
  rw [round, chosen]
  cases none : s.arb.candidates with
  | nil =>
    rw [if_pos rfl]
    exact granted
  | cons r rest =>
    rw [none] at turn
    rw [if_neg nofun]
    dsimp only
    unfold State.grantBoth
    rw [if_pos (turn.resolve_left nofun), granted]
    rfl

/-- What is presented depends on the blocks behind the link and on what stood presented by the answer and status writer and of
an abandoned placement. -/
theorem presentations_congr {s u : State} (core : u.core = s.core) (answer : u.arb.answer = s.arb.answer)
    (abandoned : u.arb.abandoned = s.arb.abandoned) : u.presentations = { u.arb with
      answer := s.presentations.answer
      engine := s.presentations.engine
      record := s.presentations.record
      abandoned := s.presentations.abandoned } := by
  unfold State.presentations State.replyPresented State.abandonedPresented
  rw [core, answer, abandoned]

/-- After an upstream grant the same requests stand presented. -/
theorem present_issuedUpstream {s : State} (h : s.Presented) (round : s.arb.round = []) (p : Port) (es : List Accepted)
    (e : Accepted) (wait : Nat) : (s.issuedUpstream p es e wait).present.arb =
      { s.arb with lastGrant := p, round := [], waitCount := if s.arb.candidates = [] then 0 else wait } := by
  obtain ⟨core, line, -⟩ := s.issuedUpstream_beside p es e wait
  have same : (s.issuedUpstream p es e wait).presentations = { s.arb with lastGrant := p, waitCount := wait } := by
    rw [presentations_congr core rfl rfl, h.presentations]
    rfl
  rw [present_arb_of_no_round (line.trans h.line) round, same]
  rfl

/-! ### What an internal grant issues (R138, R149, R178, R182, R184) -/

/-- The grant of an internal requester issues i and leaves k behind the link: one case for each request that can stand
presented. -/
inductive State.Issues (s : State) : Requester → Issued → Core → Prop
  | block2 (presented : s.arb.answer = some .block2) :
      s.Issues .answer
        { owner := .answer (.answerBlock !s.core.unit.due.isEmpty),
          request := fullWrite (s.pageAddr 2) (answerBlock s.core.unit.carried s.core.unit.refusal), discarded := false }
        (s.core.setUnit { s.core.unit with refusalMark := false, awaiting := true })
  | block3 (presented : s.arb.answer = some .block3) :
      s.Issues .answer
        { owner := .answer .statusBlock, request := fullWrite (s.pageAddr 3) s.core.statusBlock, discarded := false }
        (s.core.setUnit { s.core.unit with dirty := false, awaiting := true })
  | fetch (tag : Num) (paths : Bool) (f : Fetch) (r : Nat × Fin 8) (running : s.core.unit.running = some (.apply tag paths f))
      (next : (fetchReads paths)[f.granted]? = some r) :
      s.Issues .engine { owner := .fetch, request := .read (s.pageAddr r.1) r.2, discarded := false }
        (s.core.setUnit { s.core.unit with running := some (.apply tag paths { f with granted := f.granted + 1 }) })
  | snapshot (tag : Num) (x : SnapshotTarget) (granted completed : Nat)
      (running : s.core.unit.running = some (.snapshot tag x granted completed)) :
      s.Issues .engine
        { owner := .snapshot, request := fullWrite (s.pageAddr (x.first + granted)) (s.core.snapshotBlock x granted),
          discarded := false }
        (s.core.setUnit { s.core.unit with running := some (.snapshot tag x (granted + 1) completed) })
  | abandoned (w : BlockWrite) (stands : s.arb.abandoned = some w) :
      s.Issues .record { owner := .record, request := .write w, discarded := true } s.core
  | slot (p : Placement) (none : s.arb.abandoned = none) (placing : s.core.writer.placement = some p) :
      s.Issues .record { owner := .record, request := .write (s.core.placementWrite p), discarded := false }
        (s.core.setWriter { s.core.writer with placement := some { p with granted := p.granted + 1 } })

theorem State.Issues.discarded {s : State} {r : Requester} {i : Issued} {k : Core} (h : s.Issues r i k) :
    i.discarded = (r == .record && s.arb.abandoned.isSome) := by
  cases h with
  | block2 | block3 | fetch | snapshot => rfl
  | abandoned w stands => rw [stands]; rfl
  | slot p none => rw [none]; rfl

theorem State.Issues.internal {s : State} {r : Requester} {i : Issued} {k : Core} (h : s.Issues r i k) (p : Port) :
    i.owner ≠ .port p := by
  cases h <;> nofun

/-- What the grant of an internal request leaves of the link, and what the other requesters present after it. -/
structure State.Granted (s u : State) (r : Requester) (i : Issued) (k : Core) : Prop where
  core      : u.core = k
  issued    : u.issued = s.issued ++ [i]
  line      : u.linkReset = s.linkReset
  acq       : u.acq = s.acq
  host      : u.host = s.host
  lastGrant : u.arb.lastGrant = s.arb.lastGrant
  waitCount : u.arb.waitCount = s.arb.waitCount
  abandoned : r = .record → u.arb.abandoned = none
  others    : ∀ q, q ≠ r → u.presentations.presents q = s.presentations.presents q

theorem issueReply_granted {s : State} (presents : s.arb.presents .answer = true) :
    ∃ i k, s.Issues .answer i k ∧ s.Granted s.issueReply .answer i k := by
  unfold State.issueReply
  dsimp only
  split
  · rename_i stands
    refine ⟨_, _, .block2 stands, rfl, rfl, rfl, rfl, rfl, rfl, rfl, nofun, fun q other => ?_⟩
    cases q with
    | answer => exact absurd rfl other
    | engine | record => rfl
  · rename_i stands
    refine ⟨_, _, .block3 stands, rfl, rfl, rfl, rfl, rfl, rfl, rfl, nofun, fun q other => ?_⟩
    cases q with
    | answer => exact absurd rfl other
    | engine | record => rfl
  · rename_i none
    rw [Arbiter.presents, none] at presents
    cases presents

theorem issueEngine_granted {s : State} (presents : s.core.enginePresents = true) :
    ∃ i k, s.Issues .engine i k ∧ s.Granted s.issueEngine .engine i k := by
  unfold Core.enginePresents at presents
  unfold State.issueEngine
  dsimp only
  split
  · rename_i tag paths f running
    rw [running] at presents
    have more : f.granted < (fetchReads paths).length := of_decide_eq_true (Bool.and_eq_true_iff.1 presents).2
    rw [List.getElem?_eq_getElem more]
    refine ⟨_, _, .fetch tag paths f _ running (List.getElem?_eq_getElem more), rfl, rfl, rfl, rfl, rfl, rfl, rfl, nofun,
      fun q other => ?_⟩
    cases q with
    | engine => exact absurd rfl other
    | answer | record => rfl
  · rename_i tag x granted completed running
    refine ⟨_, _, .snapshot tag x granted completed running, rfl, rfl, rfl, rfl, rfl, rfl, rfl, nofun, fun q other => ?_⟩
    cases q with
    | engine => exact absurd rfl other
    | answer | record => rfl
  · rename_i none
    rw [none] at presents
    cases presents

theorem issueRecord_granted {s : State} (presents : (s.core.recordPresents || s.arb.abandoned.isSome) = true) :
    ∃ i k, s.Issues .record i k ∧ s.Granted s.issueRecord .record i k := by
  unfold State.issueRecord
  split
  · rename_i w stands
    refine ⟨_, _, .abandoned w stands, rfl, rfl, rfl, rfl, rfl, rfl, rfl, fun _ => rfl, fun q other => ?_⟩
    cases q with
    | record => exact absurd rfl other
    | answer | engine => rfl
  · rename_i none
    rw [none, Option.isSome_none, Bool.or_false] at presents
    unfold Core.recordPresents at presents
    unfold State.issuePlacement
    dsimp only
    split
    · rename_i p placing
      refine ⟨_, _, .slot p none placing, rfl, rfl, rfl, rfl, rfl, rfl, rfl, fun _ => none, fun q other => ?_⟩
      cases q with
      | record => exact absurd rfl other
      | answer | engine => rfl
    · rename_i idle
      rw [idle, Bool.and_false] at presents
      cases presents

/-- A requester that stands presented is issued its request. -/
theorem issueInternal_granted {s : State} (h : s.Presented) {r : Requester} (presents : s.arb.presents r = true) :
    ∃ i k, s.Issues r i k ∧ s.Granted (s.issueInternal r) r i k := by
  cases r with
  | answer => exact issueReply_granted presents
  | engine =>
    refine issueEngine_granted ?_
    rw [← h.presentations] at presents
    exact presents
  | record =>
    refine issueRecord_granted ?_
    have record : (s.core.recordPresents && s.arb.abandoned.isNone) = s.arb.record := congrArg Arbiter.record h.presentations
    unfold Arbiter.presents at presents
    dsimp only at presents
    rw [← record] at presents
    cases stands : s.core.recordPresents with
    | true => rfl
    | false => rwa [stands, Bool.false_and] at presents

/-! ### An internal round (R170) -/

/-- The round and the wait count set after a grant. -/
def State.setRoundWait (s : State) (round : List Requester) (wait : Nat) : State :=
  s.setArb { s.arb with round := round, waitCount := wait }

theorem grantInRound_eq (s : State) (r : Requester) (rest : List Requester) : s.grantInRound r rest =
    (s.issueInternal r).setRoundWait rest (if rest = [] then 0 else (s.issueInternal r).arb.waitCount) := by
  unfold State.grantInRound
  cases rest with
  | nil => rfl
  | cons q rest => rfl

/-- A round under way goes on, and at the tenure one begins (R170). -/
theorem choose_round {s : State} {r : Requester} {rest : List Requester}
    (h : s.arb.round = r :: rest ∨
      (s.arb.round = [] ∧ s.arb.candidates = r :: rest ∧ s.core.global.tenure ≤ s.arb.waitCount ∧ ∃ p, s.hasWaiting p = true)) :
    s.choose = s.grantInRound r rest := by
  unfold State.choose
  rcases h with round | ⟨round, candidates, tenure, p, has⟩
  · rw [round]
  · obtain ⟨q, chosen⟩ := upstreamChoice_isSome has
    rw [round, chosen, candidates]
    exact if_neg (Nat.not_lt.2 tenure)

theorem choose_alone {s : State} {r : Requester} {rest : List Requester} (round : s.arb.round = [])
    (candidates : s.arb.candidates = r :: rest) (alone : ∀ p, s.hasWaiting p = false) : s.choose = s.issueInternal r := by
  unfold State.choose
  rw [round, upstreamChoice_none alone, candidates]

/-- What an internal grant leaves after the presentations of the step, whatever becomes of round and wait count. -/
theorem State.Granted.present {s u : State} {r : Requester} {i : Issued} {k : Core} (g : s.Granted u r i k)
    (line : s.linkReset = false) (round : List Requester) (wait : Nat) :
    (u.setRoundWait round wait).present.core = k ∧ (u.setRoundWait round wait).present.issued = s.issued ++ [i] ∧
      (r = .record → (u.setRoundWait round wait).present.arb.abandoned = none) := by
  refine ⟨(State.present_core _).trans g.core, (State.present_issued _).trans g.issued, fun record => ?_⟩
  rw [present_arb (s := u.setRoundWait round wait) (g.line.trans line)]
  show (u.setRoundWait round wait).abandonedPresented = none
  unfold State.abandonedPresented
  split
  · rfl
  · exact g.abandoned record

/-- The requesters that the round has left still present, so the round goes on with all of them. -/
theorem State.Granted.present_round {s u : State} {r : Requester} {i : Issued} {k : Core} (g : s.Granted u r i k) (h : s.Presented)
    {rest : List Requester} (others : r ∉ rest) (present : ∀ q ∈ rest, s.arb.presents q = true) (wait : Nat) :
    (u.setRoundWait rest wait).present.arb.round = rest ∧
      (rest = [] → wait = 0 → (u.setRoundWait rest wait).present.arb.waitCount = 0) ∧
      (rest ≠ [] → (u.setRoundWait rest wait).present.arb.waitCount = wait) := by
  have still : ∀ q ∈ rest, (u.setRoundWait rest wait).presentations.presents q = true := by
    intro q hq
    have other : q ≠ r := fun same => others (same ▸ hq)
    have same := (g.others q other).trans (congrArg (fun a : Arbiter => a.presents q) h.presentations)
    exact same.trans (present q hq)
  have whole : rest.filter (u.setRoundWait rest wait).presentations.presents = rest := List.filter_eq_self.2 still
  rw [present_arb (s := u.setRoundWait rest wait) (g.line.trans h.line)]
  refine ⟨whole, fun _ zero => ?_, fun more => ?_⟩
  · dsimp only
    split
    · rfl
    · exact zero
  · obtain ⟨q, hq⟩ := List.exists_mem_of_ne_nil rest more
    have busy : (u.setRoundWait rest wait).presentations.candidates.isEmpty = false := by
      rw [List.isEmpty_eq_false_iff]
      exact List.ne_nil_of_mem (mem_candidates.2 (still q hq))
    have goesOn : (!rest.isEmpty && (rest.filter (u.setRoundWait rest wait).presentations.presents).isEmpty) = false := by
      rw [whole]
      cases rest.isEmpty <;> rfl
    show (if (!rest.isEmpty && (rest.filter (u.setRoundWait rest wait).presentations.presents).isEmpty) ||
      (u.setRoundWait rest wait).presentations.candidates.isEmpty then 0 else wait) = wait
    rw [goesOn, busy]
    rfl

end Sys2Proof.Machine

open Sys2Proof Sys2Proof.Machine

/-- Settles O33: an upstream grant takes the candidate whose turn it is and leaves the presentations as they stand; an internal
one takes the first of the round, and the others still present. -/
theorem arbiterChooses : Obligations.ArbiterChooses := by
  intro s same line room
  have h := presented_of_present_eq same line
  have grants := memoryGrant_eq same line room
  refine ⟨fun p e before after round turn accepted waits older sides => ?_, fun r rest round => ?_⟩
  · have has : s.hasWaiting p = true := hasWaiting_iff.2 ⟨e, by rw [accepted]; simp, waits⟩
    have chosen := upstreamChoice_eq has <| sides.imp_left fun alone q other => by
      rw [← Bool.not_eq_true, hasWaiting_iff]
      rintro ⟨x, hx, waiting⟩
      exact alone q other x hx waiting
    rw [choose_upstream round turn chosen accepted waits older] at grants
    generalize before ++ { e with cond := .issued } :: after = es at grants ⊢
    generalize hw : (if s.arb.candidates = [] then s.arb.waitCount else s.arb.waitCount + 1) = wait at grants
    obtain ⟨core, -, strap, timeRef, pending⟩ := s.issuedUpstream_beside p es e wait
    obtain ⟨port, others, issued⟩ := s.issuedUpstream_ports p es e wait
    have arb := present_issuedUpstream h round p es e wait
    refine ⟨_, grants, (State.present_core _).trans core, (State.present_port _ p).trans port,
      fun q other => (State.present_port _ q).trans (others q other), (State.present_issued _).trans issued,
      (congrArg Arbiter.lastGrant arb :), (congrArg Arbiter.answer arb :), (congrArg Arbiter.engine arb :),
      (congrArg Arbiter.record arb :), (congrArg Arbiter.abandoned arb :), (congrArg Arbiter.waitCount arb).trans ?_,
      (congrArg Arbiter.round arb :),
      (State.present_strap _).trans strap, (State.present_timeRef _).trans timeRef, (State.present_pending _).trans pending⟩
    rw [← hw]
    by_cases idle : s.arb.candidates = []
    · exact (if_pos idle).trans (if_pos idle).symm
    · exact (if_neg idle).trans ((if_neg idle).trans (if_neg idle).symm)
  · have begun : (r :: rest).Nodup ∧ (∀ q ∈ r :: rest, s.arb.presents q = true) ∧ s.choose = s.grantInRound r rest := by
      rcases round with ⟨underWay, nodup⟩ | ⟨none, candidates, tenure, p, e, he, waits⟩
      · exact ⟨nodup, fun q hq => h.round q (underWay ▸ hq), choose_round (.inl underWay)⟩
      · exact ⟨candidates ▸ candidates_nodup s.arb, fun q hq => mem_candidates.1 (candidates ▸ hq),
          choose_round (.inr ⟨none, candidates, tenure, p, hasWaiting_iff.2 ⟨e, he, waits⟩⟩)⟩
    obtain ⟨nodup, present, choice⟩ := begun
    obtain ⟨i, k, issues, g⟩ := issueInternal_granted h (present r List.mem_cons_self)
    rw [choice, grantInRound_eq, g.waitCount] at grants
    generalize hw : (if rest = [] then 0 else s.arb.waitCount) = wait at grants
    obtain ⟨-, issued, -⟩ := g.present line rest wait
    obtain ⟨goesOn, ends, counts⟩ := g.present_round h (List.nodup_cons.1 nodup).1
      (fun q hq => present q (List.mem_cons_of_mem r hq)) wait
    exact ⟨_, i, grants, issued, issues.discarded, issues.internal, (State.present_acq _).trans g.acq,
      (State.present_host _).trans g.host, (State.present_lastGrant _).trans g.lastGrant, goesOn,
      fun last => ends last (hw ▸ if_pos last), fun more => (counts more).trans (hw ▸ if_neg more)⟩

/-- Settles O34: the request that stands presented decides what is issued, one case for each. -/
theorem internalGrantsIssue : Obligations.InternalGrantsIssue := by
  intro s same line room r presents turn
  have h := presented_of_present_eq same line
  have choice : ∃ round wait, s.choose = (s.issueInternal r).setRoundWait round wait := by
    rcases turn with ⟨rest, underWay⟩ | ⟨none, ⟨rest, candidates⟩, idle⟩
    · exact ⟨_, _, (choose_round (.inl underWay)).trans (grantInRound_eq s r rest)⟩
    · refine ⟨_, _, choose_alone none candidates fun p => ?_⟩
      rw [← Bool.not_eq_true, hasWaiting_iff]
      rintro ⟨e, he, waits⟩
      exact idle p e he waits
  obtain ⟨round, wait, choice⟩ := choice
  obtain ⟨i, k, issues, g⟩ := issueInternal_granted h presents
  obtain ⟨core, issued, abandoned⟩ := g.present line round wait
  have grants := memoryGrant_eq same line room
  rw [choice] at grants
  refine ⟨_, i, grants, issued, issues.discarded, ?_⟩
  rw [core]
  clear core issued grants g
  refine ⟨?_, ?_, ?_, ?_, ?_, ?_⟩
  · rintro rfl block2
    cases issues with
    | block2 => exact ⟨rfl, rfl, rfl⟩
    | block3 block3 => exact absurd (block2.symm.trans block3) nofun
  · rintro rfl block3
    cases issues with
    | block2 block2 => exact absurd (block3.symm.trans block2) nofun
    | block3 => exact ⟨rfl, rfl, rfl⟩
  · rintro rfl tag paths f running
    cases issues with
    | fetch tag' paths' f' x running' next =>
      obtain ⟨rfl, rfl, rfl⟩ : tag = tag' ∧ paths = paths' ∧ f = f' := by simpa using running.symm.trans running'
      exact ⟨x.1, x.2, next, rfl, rfl, rfl⟩
    | snapshot _ _ _ _ running' => exact absurd (running.symm.trans running') nofun
  · rintro rfl tag target granted completed running
    cases issues with
    | fetch _ _ _ _ running' => exact absurd (running.symm.trans running') nofun
    | snapshot tag' target' granted' completed' running' =>
      obtain ⟨rfl, rfl, rfl, rfl⟩ : tag = tag' ∧ target = target' ∧ granted = granted' ∧ completed = completed' := by
        simpa using running.symm.trans running'
      exact ⟨rfl, rfl, rfl⟩
  · rintro rfl w stands
    cases issues with
    | abandoned w' stands' =>
      obtain rfl : w = w' := Option.some.inj (stands.symm.trans stands')
      exact ⟨rfl, rfl, rfl, abandoned rfl⟩
    | slot _ none => exact absurd (stands.symm.trans none) nofun
  · rintro rfl none p placing
    cases issues with
    | abandoned _ stands => exact absurd (none.symm.trans stands) nofun
    | slot p' _ placing' =>
      obtain rfl : p = p' := Option.some.inj (placing.symm.trans placing')
      exact ⟨rfl, rfl, rfl⟩

end

section
/-! The return of complete entries in acceptance order (R165), and what one upstream queue keeps (R160, R166, R169). -/

namespace Sys2Proof.Machine

/-! ### Return in acceptance order (R165) -/

theorem setPort_returned (s : State) (p : Port) (x y : PortState) (k l : Core) :
    (((s.setPort p x).setCore k).setPort p y).setCore l = (s.setPort p y).setCore l := by
  cases p <;> rfl

theorem drained_of_settled {q : PortState} (h : q.settled = true) : q.drained q.accepted = q := by
  obtain ⟨link, accepted, returned⟩ := q
  cases accepted with
  | nil => simp [PortState.drained]
  | cons e es =>
    have waits : e.isComplete = false := by simpa [PortState.settled] using h
    simp [PortState.drained, waits]

theorem drained_of_oldest_complete {q : PortState} {e : Accepted} {es : List Accepted} {r : Returned}
    (h : e.cond = .complete r) :
    q.drained (e :: es) = { q with accepted := es, returned := q.returned ++ [r] }.drained es := by
  have complete : e.isComplete = true := by simp [Accepted.isComplete, h]
  have returned : e.returned = some r := by simp [Accepted.returned, h]
  simp [PortState.drained, complete, returned]

theorem setPort_self (s : State) (p : Port) : s.setPort p (s.port p) = s := by
  cases p <;> rfl

theorem eq_drained_of_settled {s : State} {p : Port} (h : (s.port p).settled = true) :
    ∃ k, s = (s.setPort p ((s.port p).drained (s.port p).accepted)).setCore k :=
  ⟨s.core, by rw [drained_of_settled h, setPort_self]; rfl⟩

theorem returnLoop_drained (p : Port) (fuel : Nat) (s : State) (enough : (s.port p).accepted.length ≤ fuel) :
    ∃ k, State.returnLoop p fuel s = (s.setPort p ((s.port p).drained (s.port p).accepted)).setCore k := by
  induction fuel generalizing s with
  | zero =>
    have empty := List.length_eq_zero_iff.1 (Nat.le_zero.1 enough)
    exact eq_drained_of_settled (s := s) (by simp [PortState.settled, empty])
  | succ fuel ih =>
    unfold State.returnLoop
    split
    · rename_i empty
      exact eq_drained_of_settled (by simp [PortState.settled, empty])
    · rename_i e rest queue
      split
      · rename_i r complete
        have port : (s.returnOne p e rest r).port p =
            { s.port p with accepted := rest, returned := (s.port p).returned ++ [r] } := by
          unfold State.returnOne
          rw [State.port_setCore, State.port_setPort_self]
        rw [queue] at enough
        obtain ⟨k, returned⟩ := ih (s.returnOne p e rest r) (by rw [port]; exact Nat.le_of_succ_le_succ enough)
        refine ⟨k, ?_⟩
        rw [returned, port, queue, drained_of_oldest_complete complete]
        exact setPort_returned ..
      all_goals
        rename_i cond
        exact eq_drained_of_settled (by simp [PortState.settled, queue, Accepted.isComplete, cond])

/-- The return of complete entries moves one port and the blocks behind the link, and nothing else. -/
theorem returnReady_drained (s : State) (p : Port) :
    ∃ k, s.returnReady p = (s.setPort p ((s.port p).drained (s.port p).accepted)).setCore k :=
  returnLoop_drained p _ s (Nat.le_refl _)

theorem drained_settled (q : PortState) (es : List Accepted) : (q.drained es).settled = true := by
  have oldest := List.head?_dropWhile_not Accepted.isComplete es
  unfold PortState.settled PortState.drained
  dsimp only
  split
  · rfl
  · rename_i e rest queue
    simpa [queue] using oldest

/-! ### One queue beside the requests that it has on the memory port (R160, R166, R169) -/

/-- A queue within its bound and in issue order, and `out`, the requests that the issued list has from it. -/
structure InStep (es : List Accepted) (out : List Request) : Prop where
  bound   : es.length ≤ 16
  ordered : inIssueOrder es
  agrees  : out = (es.filter Accepted.isIssued).map Accepted.request

/-- An entry replaced in a queue in issue order: the new one does not wait, and if it is issued then no older one waits. -/
theorem inIssueOrder_replace {before after : List Accepted} {e e' : Accepted} (h : inIssueOrder (before ++ e :: after))
    (moved : e'.isWaiting = false) (older : e'.isIssued = true → ∀ x ∈ before, x.isWaiting = false) :
    inIssueOrder (before ++ e' :: after) := by
  obtain ⟨inBefore, inAfter, across⟩ := List.pairwise_append.1 h
  refine List.pairwise_append.2 ⟨inBefore, List.pairwise_cons.2 ⟨fun x _ both => ?_, (List.pairwise_cons.1 inAfter).2⟩, ?_⟩
  · rw [moved] at both
    exact absurd both.1 nofun
  · intro x hx y hy both
    rcases List.mem_cons.1 hy with rfl | hy
    · rw [older both.2 x hx] at both
      exact absurd both.1 nofun
    · exact across x hx y (List.mem_cons_of_mem e hy) both

theorem not_isIssued_of_isWaiting {e : Accepted} (h : e.isWaiting = true) : e.isIssued = false := by
  simp [Accepted.isIssued, isWaiting_iff.1 h]

theorem InStep.join {es : List Accepted} {out : List Request} {e : Accepted} (h : InStep es out) (room : es.length < 16)
    (fresh : e.isIssued = false) : InStep (es ++ [e]) out where
  bound := by
    rw [List.length_append]
    exact room
  ordered := List.pairwise_append.2 ⟨h.ordered, List.pairwise_singleton .., fun x _ y hy both => by
    rw [List.mem_singleton.1 hy, fresh] at both
    exact absurd both.2 nofun⟩
  agrees := by
    rw [List.filter_append, List.filter_cons_of_neg (by simp [fresh]), List.filter_nil, List.append_nil]
    exact h.agrees

/-- The oldest waiting entry goes to the memory port: no entry behind it is there, so its request is the youngest. -/
theorem InStep.issue {before after : List Accepted} {e : Accepted} {out : List Request} (h : InStep (before ++ e :: after) out)
    (waits : e.isWaiting = true) (older : ∀ x ∈ before, x.isWaiting = false) :
    InStep (before ++ { e with cond := .issued } :: after) (out ++ [e.request]) where
  bound := by simpa using h.bound
  ordered := inIssueOrder_replace h.ordered rfl fun _ => older
  agrees := by
    have younger : after.filter Accepted.isIssued = [] := by
      rw [List.filter_eq_nil_iff]
      intro x hx issued
      exact (List.pairwise_cons.1 (List.pairwise_append.1 h.ordered).2.1).1 x hx ⟨waits, issued⟩
    have before_only : out = (before.filter Accepted.isIssued).map Accepted.request := by
      rw [h.agrees, List.filter_append, List.filter_cons_of_neg (by simp [not_isIssued_of_isWaiting waits]), younger,
        List.append_nil]
    rw [before_only, List.filter_append, List.filter_cons_of_pos rfl, younger, List.map_append]
    rfl

/-- The oldest issued entry is completed as the oldest issued request leaves the memory port. -/
theorem InStep.complete {before after : List Accepted} {e : Accepted} {r : Request} {out : List Request} (c : Returned)
    (h : InStep (before ++ e :: after) (r :: out)) (issued : e.isIssued = true)
    (older : ∀ x ∈ before, x.isIssued = false) : InStep (before ++ { e with cond := .complete c } :: after) out where
  bound := by simpa using h.bound
  ordered := inIssueOrder_replace h.ordered rfl fun issued => absurd issued nofun
  agrees := by
    have none_before : before.filter Accepted.isIssued = [] := by
      rw [List.filter_eq_nil_iff]
      intro x hx
      rw [older x hx]
      nofun
    have agrees := h.agrees
    rw [List.filter_append, none_before, List.nil_append, List.filter_cons_of_pos issued, List.map_cons] at agrees
    rw [List.filter_append, none_before, List.nil_append, List.filter_cons_of_neg (by simp [Accepted.isIssued])]
    exact (List.cons.inj agrees).2

/-- An entry that is complete has no request on the memory port, so returning it leaves the rest of the queue in step. -/
theorem InStep.returned {es : List Accepted} {out : List Request} (h : InStep es out) :
    InStep (es.dropWhile Accepted.isComplete) out := by
  induction es with
  | nil => exact h
  | cons e es ih =>
    cases complete : e.isComplete with
    | false => rwa [List.dropWhile_cons_of_neg (by simp [complete])]
    | true =>
      have notIssued : e.isIssued = false := by
        unfold Accepted.isComplete at complete
        unfold Accepted.isIssued
        cases cond : e.cond with
        | complete => rfl
        | waiting | issued => rw [cond] at complete; cases complete
      rw [List.dropWhile_cons_of_pos complete]
      refine ih ⟨Nat.le_of_succ_le h.bound, (List.pairwise_cons.1 h.ordered).2, ?_⟩
      rw [h.agrees, List.filter_cons_of_neg (by simp [notIssued])]

/-- CLEAR takes the fetch marks from the entries and leaves their requests and conditions. -/
theorem InStep.forgetFetch {q : PortState} {out : List Request} (h : InStep q.accepted out) :
    InStep q.forgetFetch.accepted out where
  bound := by simpa [PortState.forgetFetch] using h.bound
  ordered := List.pairwise_map.2 h.ordered
  agrees := by
    unfold PortState.forgetFetch
    rw [List.filter_map, List.map_map]
    exact h.agrees

end Sys2Proof.Machine

end

section
/-! The completion of an upstream request (R165 to R167). -/

namespace Sys2Proof.Machine

/-! ### The oldest issued entry completed (R166) -/

theorem isIssued_iff {e : Accepted} : e.isIssued = true ↔ e.cond = .issued := beq_iff_eq

theorem completeOldest_split {before after : List Accepted} {e : Accepted} (r : Completion) (issued : e.isIssued = true)
    (older : ∀ x ∈ before, x.isIssued = false) :
    completeOldest r (before ++ e :: after) =
      before ++ { e with cond := .complete (returnedFor e.request r) } :: after := by
  induction before with
  | nil => exact if_pos issued
  | cons x before ih =>
    rw [List.cons_append, List.cons_append, ← ih fun y hy => older y (List.mem_cons_of_mem x hy)]
    exact if_neg (by simp [older x List.mem_cons_self])

/-- The port's queue with its oldest issued entry completed, before complete entries are returned; behind the link, what the
receipt does. -/
def State.completedAt (s : State) (p : Port) (es : List Accepted) (e : Accepted) (r : Completion) : State :=
  (s.setPort p { s.port p with accepted := es }).setCore (s.core.upstreamReceived p e r)

theorem completeUpstream_split {s : State} {p : Port} {before after : List Accepted} {e : Accepted}
    (accepted : (s.port p).accepted = before ++ e :: after) (issued : e.isIssued = true)
    (older : ∀ x ∈ before, x.isIssued = false) (r : Completion) :
    s.completeUpstream p r =
      (s.completedAt p (before ++ { e with cond := .complete (returnedFor e.request r) } :: after) e r).returnReady p := by
  have oldest : (s.port p).accepted.find? Accepted.isIssued = some e :=
    List.find?_eq_some_iff_append.2 ⟨issued, before, after, accepted, fun x hx => by simp [older x hx]⟩
  unfold State.completeUpstream
  dsimp only
  rw [oldest, accepted, completeOldest_split r issued older]
  rfl

theorem receive_port {s : State} {i : Issued} {rest : List Issued} {p : Port} (issued : s.issued = i :: rest)
    (owner : i.owner = .port p) (fresh : i.discarded = false) (r : Completion) :
    s.receive r = (s.setIssued rest).completeUpstream p r := by
  unfold State.receive State.completeFor
  rw [issued]
  dsimp only
  rw [fresh, owner]
  rfl

/-- The oldest issued request of a port has been completed and has left the issued list, and complete entries have been
returned. -/
theorem completedAt_returned (s : State) (rest : List Issued) (p : Port) (es : List Accepted) (e : Accepted)
    (r : Completion) :
    let t := (((s.setIssued rest).completedAt p es e r).returnReady p).present
    s.PinsKept t ∧ t.issued = rest ∧ (∀ q, q ≠ p → t.port q = s.port q) ∧ t.port p = (s.port p).drained es := by
  obtain ⟨k, returned⟩ := returnReady_drained ((s.setIssued rest).completedAt p es e r) p
  dsimp only
  rw [returned]
  unfold State.completedAt
  refine ⟨⟨?_, ?_, ?_, ?_, ?_⟩, ?_, fun q other => ?_, ?_⟩
  · simp
  · simp
  · simp
  · simp
  · simp
  · simp
  · simp [State.port_setPort, Ne.symm other]
  · simp [PortState.drained]

/-! ### What a completion of the acquisition port does behind the link (R167) -/

theorem upstreamReceived_acquisition_done (k : Core) {e : Accepted} (noFetch : e.startsFetch = false)
    (lines : Vector Block 8) : k.upstreamReceived .acquisition e (.done lines) = k := by
  unfold Core.upstreamReceived
  dsimp only
  rw [if_neg (by simp [noFetch])]
  cases e.request with
  | read | write => rfl

theorem upstreamReceived_acquisition_failed (k : Core) {e : Accepted} {w : BlockWrite} {x : Place}
    (noFetch : e.startsFetch = false) (request : e.request = .write w) (place : e.places = [x]) :
    k.upstreamReceived .acquisition e .failed = k.raiseDownstream w.addr x := by
  unfold Core.upstreamReceived
  rw [request, place, if_neg (by simp [noFetch])]
  rfl

/-- A DOWNSTREAM fault of an acoustic channel is counted there, raises FAULT and is recorded; its stream and the blocks that
analyse it stay (R13, R132, R167). -/
theorem raiseDownstream_acoustic (k : Core) (addr : BlockAddr) (c : Chan) (n : Nat) :
    let k' := k.raiseDownstream addr (.acoustic c n)
    (k'.tracker c).faults = min ((k.tracker c).faults + 1) 65535 ∧ (k'.tracker c).count = (k.tracker c).count ∧
      (k'.tracker c).expected = (k.tracker c).expected ∧ k'.guard = k.guard ∧ k'.hits = k.hits ∧ k'.group = k.group ∧
      k'.unit.pending = k.unit.pending ||| 64 ∧
      ((∀ x ∈ k.writer.queue, x.isFault = false) →
        k'.writer.queue = k.writer.queue ++ [k.faultRecord
          { kind := .downstream, place := .acoustic c, index := none, expected := none, distance := none,
            time := some (32 * (k.tracker c).count), lead := none, addr := some addr }]) := by
  have tracker : (k.raiseDownstream addr (.acoustic c n)).tracker c =
      { k.tracker c with faults := min ((k.tracker c).faults + 1) 65535 } := (countFault_tracker k c c).trans (if_pos rfl)
  dsimp only
  rw [tracker]
  unfold Core.raiseDownstream
  dsimp only
  refine ⟨rfl, rfl, rfl, ?_, ?_, ?_, ?_, fun alone => congrArg Writer.queue (raiseFault_fresh k _ alone)⟩
  all_goals rw [raiseFault_eq]

end Sys2Proof.Machine

open Sys2Proof Sys2Proof.Machine

/-- Settles O36: the completion makes the oldest issued entry complete, and the return leaves the queue from its oldest entry
on that is not; on the acquisition port no return acts behind the link. -/
theorem completionReturnsInOrder : Obligations.CompletionReturnsInOrder := by
  intro r s p i rest e before after issued owner fresh accepted onPort older
  have received := (receive_port issued owner fresh r).trans
    (completeUpstream_split (s := s.setIssued rest) (by rwa [State.port_setIssued]) (isIssued_iff.2 onPort)
      (fun x hx => Bool.eq_false_iff.2 (mt isIssued_iff.1 (older x hx))) r)
  obtain ⟨pins, issued', others, port⟩ := completedAt_returned s rest p
    (before ++ { e with cond := .complete (returnedFor e.request r) } :: after) e r
  rw [← received] at pins issued' others port
  have behind (acquisition : p = .acquisition) : (s.receive r).present.core = s.core.upstreamReceived .acquisition e r := by
    subst acquisition
    rw [State.present_core, received, State.returnReady_acquisition_core]
    rfl
  refine ⟨_, rfl, pins, issued', others, port, ?_, ?_⟩
  · rintro acquisition noFetch ⟨lines, rfl⟩
    rw [behind acquisition, upstreamReceived_acquisition_done _ noFetch]
  · rintro acquisition noFetch rfl w c n request place
    rw [behind acquisition, upstreamReceived_acquisition_failed _ noFetch request place]
    exact raiseDownstream_acoustic s.core w.addr c n

end

section
/-! Acceptance (R161) of reads and of writes that no ring takes (R163, R164, R178). -/

namespace Sys2Proof.Machine

/-! ### A held read (R161) -/

theorem canAccept_read {s : State} {r : Request} {rest : List Request} (line : s.linkReset = false)
    (link : s.host.link = r :: rest) (room : s.host.accepted.length < 16) : s.canAccept .host = true := by
  simp [State.canAccept, line, link, room]

theorem acceptHeld_host {s : State} (closed : s.canAccept .acquisition = false) (free : s.canAccept .host = true) :
    s.acceptHeld = s.acceptOn .host := by
  unfold State.acceptHeld
  rw [closed, free]

theorem acceptHeld_idle {s : State} (acquisition : s.canAccept .acquisition = false) (host : s.canAccept .host = false) :
    s.acceptHeld = s := by
  unfold State.acceptHeld
  rw [acquisition, host]

/-- The entry that a read becomes. -/
def State.readEntry (s : State) (addr : BlockAddr) (len : Fin 8) : Accepted :=
  { request := .read addr len, places := s.placesOf (.read addr len), startsFetch := false, cond := .waiting }

/-- A read at the front of the host link leaves it and waits. -/
theorem acceptFront_read {s : State} {addr : BlockAddr} {len : Fin 8} {rest : List Request}
    (link : s.host.link = .read addr len :: rest) (settled : s.host.settled = true) :
    s.acceptFront .host = s.setPort .host
      { s.host with link := rest, accepted := s.host.accepted ++ [s.readEntry addr len] } := by
  unfold State.acceptFront
  rw [State.port_host, link]
  exact State.returnReady_enqueue_waiting (s.setPort .host { s.host with link := rest }) .host _ settled rfl

/-! ### A write that no ring takes (R163, R164, R178) -/

theorem takeAcq_record {s : State} {w : BlockWrite} {n : Nat} (place : s.place w.addr.toNat = .record n) :
    s.takeAcquisitionWrite w = (s.setCore (s.core.raiseForeign w.addr), false) := by
  unfold State.takeAcquisitionWrite
  rw [place]

theorem takeAcq_control {s : State} {w : BlockWrite} {b : Nat} (place : s.place w.addr.toNat = .control b) :
    s.takeAcquisitionWrite w = (s.setCore ((s.core.raiseForeign w.addr).reportPageWrite b), false) := by
  unfold State.takeAcquisitionWrite
  rw [place]

theorem takeAcq_plain {s : State} {w : BlockWrite} (place : s.place w.addr.toNat = .plain) :
    s.takeAcquisitionWrite w = (s, false) := by
  unfold State.takeAcquisitionWrite
  rw [place]

theorem takeHostWrite_plain {s : State} {w : BlockWrite} (place : s.place w.addr.toNat = .plain) :
    s.takeHostWrite w = (s, false) := by
  unfold State.takeHostWrite
  rw [place]

theorem takeHostWrite_record {s : State} {w : BlockWrite} {n : Nat} (place : s.place w.addr.toNat = .record n) :
    s.takeHostWrite w = (s, false) := by
  unfold State.takeHostWrite
  rw [place]

/-- A host write to a page block that carries no command is only reported to the running APPLY. -/
theorem takeHostWrite_page {s : State} {w : BlockWrite} {b : Nat} (place : s.place w.addr.toNat = .control b) (noCommand : 2 ≤ b) :
    s.takeHostWrite w = (s.setCore (s.core.reportPageWrite b), false) := by
  unfold State.takeHostWrite State.takePageWrite
  rw [place]
  match b, noCommand with
  | b + 2, _ => rfl

theorem forwarded_acquisition {s t : State} {w : BlockWrite} (ready : s.Ready .acquisition)
    (taken : s.takeAcquisitionWrite w = (t, false)) :
    ∃ u, exec (.forwardedWrite .acquisition w) s = .next u ∧ s.AcquisitionTaken u w false ∧ u.core = t.core := by
  have accepted := acquisition_taken s w ready
  rw [taken] at accepted
  exact ⟨_, rfl, accepted⟩

theorem forwarded_host {s t : State} {w : BlockWrite} (ready : s.Ready .host)
    (noCommand : (∀ b, s.place w.addr.toNat ≠ .control b) ∨ ∃ b, s.place w.addr.toNat = .control b ∧ 2 ≤ b)
    (taken : s.takeHostWrite w = (t, false)) :
    ∃ u, exec (.forwardedWrite .host w) s = .next u ∧ s.HostWriteTaken u w false ∧ u.core = t.core := by
  have accepted := host_write_taken s w ready noCommand
  rw [taken] at accepted
  exact ⟨_, rfl, accepted⟩

/-! ### A FOREIGN fault (R164) -/

/-- A FOREIGN fault belongs to no channel: it raises FAULT and is recorded. -/
theorem raiseForeign_eq (k : Core) (addr : BlockAddr) : k.raiseForeign addr =
    { k with writer := (k.raiseForeign addr).writer, unit := k.unit.raised 64 } := raiseFault_eq k _

/-- What a FOREIGN fault leaves when the write is then reported to the fetch or not; `covered` says that the fetch covers it. -/
structure Core.ForeignRaised (k k' : Core) (addr : BlockAddr) (covered : Prop) : Prop where
  streams   : k'.streams = k.streams
  hits      : k'.hits = k.hits
  group     : k'.group = k.group
  guard     : k'.guard = k.guard
  monitor   : k'.monitor = k.monitor
  check     : k'.check = k.check
  unit      : k'.unit = { k.unit.raised 64 with disturbed := k'.unit.disturbed }
  disturbed : k'.unit.disturbed = true ↔ k.unit.disturbed = true ∨ covered
  writer    : (∀ r ∈ k.writer.queue, r.isFault = false) → k'.writer = { k.writer with
    queue := k.writer.queue ++ [k.faultRecord
      { kind := .foreign, place := .elsewhere, index := none, expected := none, distance := none, time := none, lead := none,
        addr := some addr }] }

theorem raiseForeign_raised (k : Core) (addr : BlockAddr) {covered : Prop} (outside : ¬covered) :
    k.ForeignRaised (k.raiseForeign addr) addr covered := by
  refine ⟨?_, ?_, ?_, ?_, ?_, ?_, ?_, ?_, raiseFault_fresh k _⟩
  all_goals rw [raiseForeign_eq]
  exact (or_iff_left outside).symm

/-- The fault changes nothing that the fetched range is read from, so the report that follows sees the same fetch. -/
theorem raiseForeign_reported (k : Core) (addr : BlockAddr) (b : Nat) :
    k.ForeignRaised ((k.raiseForeign addr).reportPageWrite b) addr (k.fetches b) := by
  have sameFetch : (k.raiseForeign addr).fetches b ↔ k.fetches b := by rw [raiseForeign_eq]; rfl
  obtain ⟨inside, outside⟩ := reportPageWrite_spec (k.raiseForeign addr) b
  by_cases fetched : k.fetches b
  · obtain ⟨streams, hits, group, guard, monitor, check, unit, -, writer⟩ :=
      raiseForeign_raised k addr (covered := False) not_false
    rw [inside (sameFetch.2 fetched)]
    refine ⟨streams, hits, group, guard, monitor, check, ?_, by simp [fetched], writer⟩
    show { (k.raiseForeign addr).unit with disturbed := true } = _
    rw [unit]
  · rw [outside fun h => fetched (sameFetch.1 h)]
    exact raiseForeign_raised k addr fetched

end Sys2Proof.Machine

open Sys2Proof Sys2Proof.Machine

/-- Settles O5: the line falls, and the presentations that follow touch the arbiter alone. -/
theorem linkResetReleaseFrees : Obligations.LinkResetReleaseFrees := fun _ =>
  ⟨_, rfl, State.present_linkReset _, State.present_core _, State.present_acq _, State.present_host _, State.present_issued _,
    State.present_strap _, State.present_timeRef _, State.present_pending _, State.present_lastGrant _⟩

/-- Settles O2: a port that can accept takes the front of its link, and a read that joins a settled queue waits there. -/
theorem stepAcceptsOrIdles : Obligations.StepAcceptsOrIdles := by
  intro s none closed
  have held : step s = .next s.acceptHeld := by
    unfold step
    rw [none]
  refine ⟨fun full => by rw [held, acceptHeld_idle closed full], fun addr len rest line link room settled => ?_⟩
  rw [acceptHeld_host closed (canAccept_read line link room), State.acceptOn, acceptFront_read link settled] at held
  exact ⟨_, held, ⟨State.present_strap _, State.present_linkReset _, State.present_timeRef _, State.present_pending _,
    State.present_lastGrant _⟩, State.present_core _, State.present_acq _, State.present_issued _, State.present_host _⟩

/-- Settles O27: the decoder's class decides what an accepted write does behind the link: nothing, a report to the fetch, a
FOREIGN fault, or both; each such write waits, and so does every read. -/
theorem otherRequestsWait : Obligations.OtherRequestsWait := by
  intro p w s ready
  refine ⟨fun plain => ?_, ?_, ?_, ?_, fun addr len => ?_⟩
  · cases p with
    | acquisition =>
      obtain ⟨t, ran, taken, core⟩ := forwarded_acquisition ready (takeAcq_plain plain)
      exact ⟨t, ran, core, fun _ => taken, nofun⟩
    | host =>
      obtain ⟨t, ran, taken, core⟩ :=
        forwarded_host ready (.inl fun b page => by cases plain.symm.trans page) (takeHostWrite_plain plain)
      exact ⟨t, ran, core, nofun, fun _ => taken⟩
  · rintro rfl ⟨n, record⟩
    obtain ⟨t, ran, taken, core⟩ :=
      forwarded_host ready (.inl fun b page => by cases record.symm.trans page) (takeHostWrite_record record)
    exact ⟨t, ran, core, taken⟩
  · rintro rfl b page noCommand
    obtain ⟨t, ran, taken, core⟩ := forwarded_host ready (.inr ⟨b, page, noCommand⟩) (takeHostWrite_page page noCommand)
    obtain ⟨inside, outside⟩ := reportPageWrite_spec s.core b
    exact ⟨t, ran, taken, fun fetched => core.trans (outside fetched), fun fetched => core.trans (inside fetched)⟩
  · rintro rfl foreign
    have raised : ∃ t, exec (.forwardedWrite .acquisition w) s = .next t ∧ s.AcquisitionTaken t w false ∧
        s.core.ForeignRaised t.core w.addr (∃ b, s.place w.addr.toNat = .control b ∧ s.core.fetches b) := by
      rcases foreign with ⟨n, record⟩ | ⟨b, page⟩
      · obtain ⟨t, ran, taken, core⟩ := forwarded_acquisition ready (takeAcq_record record)
        refine ⟨t, ran, taken, core ▸ raiseForeign_raised s.core w.addr ?_⟩
        rintro ⟨b, page, -⟩
        cases record.symm.trans page
      · obtain ⟨t, ran, taken, core⟩ := forwarded_acquisition ready (takeAcq_control page)
        have covered : (∃ b, s.place w.addr.toNat = .control b ∧ s.core.fetches b) ↔ s.core.fetches b := by
          rw [page]
          simp
        rw [covered]
        exact ⟨t, ran, taken, core ▸ raiseForeign_reported s.core w.addr b⟩
    obtain ⟨t, ran, taken, raised⟩ := raised
    exact ⟨t, ran, taken, raised.streams, raised.hits, raised.group, raised.guard, raised.monitor, raised.check, raised.unit,
      raised.disturbed, raised.writer⟩
  · have waits := State.arrive_read s p addr len ready
    refine ⟨(s.arrive p (.read addr len)).present, rfl, ?_⟩
    rw [waits]
    refine ⟨⟨?_, ?_, ?_, ?_, ?_⟩, ?_, ?_, fun q other => ?_, ?_⟩
    all_goals simp [State.enqueue, State.port_setPort]
    exact fun same => absurd same.symm other

end

section
/-! The link stays sound (R160, R165, R166, R168, R169): what acceptance, completion, grant, CLEAR and the resets make of the
accepted queues and of the issued list. -/

namespace Sys2Proof.Machine

/-! ### The link before complete entries are returned -/

/-- Both queues in step with the issued list, at most 16 issued, no upstream request discarded: a sound link, but for complete
entries that are still to be returned. -/
structure State.LinkInStep (s : State) : Prop where
  ports : ∀ p, InStep (s.port p).accepted (s.issuedOf p)
  bound : s.issued.length ≤ 16
  kept  : ∀ i ∈ s.issued, ∀ p, i.owner = .port p → i.discarded = false

theorem State.LinkSound.portSound {s : State} (h : s.LinkSound) (p : Port) : s.PortSound p := by
  cases p with
  | acquisition => exact h.acq
  | host => exact h.host

theorem State.LinkSound.settled {s : State} (h : s.LinkSound) (p : Port) : (s.port p).settled = true := (h.portSound p).settled

theorem State.LinkSound.inStep {s : State} (h : s.LinkSound) : s.LinkInStep where
  ports := fun p => ⟨(h.portSound p).bound, (h.portSound p).ordered, (h.portSound p).agrees⟩
  bound := h.bound
  kept := h.kept

theorem State.LinkInStep.linkSound {s : State} (h : s.LinkInStep) (settled : ∀ p, (s.port p).settled = true) :
    s.LinkSound := by
  have sound (p : Port) : s.PortSound p := ⟨(h.ports p).bound, settled p, (h.ports p).ordered, (h.ports p).agrees⟩
  exact ⟨sound .acquisition, sound .host, h.bound, h.kept⟩

/-- The soundness of the link reads the accepted queues and the issued list alone. -/
theorem State.LinkSound.of_same {s t : State} (h : s.LinkSound) (acq : t.acq.accepted = s.acq.accepted)
    (host : t.host.accepted = s.host.accepted) (issued : t.issued = s.issued) : t.LinkSound := by
  have accepted (p : Port) : (t.port p).accepted = (s.port p).accepted := by
    cases p with
    | acquisition => exact acq
    | host => exact host
  refine State.LinkInStep.linkSound ⟨fun p => ?_, ?_, ?_⟩ fun p => ?_
  · rw [accepted, State.issuedOf, issued]
    exact h.inStep.ports p
  · rw [issued]
    exact h.bound
  · rw [issued]
    exact h.kept
  · rw [PortState.settled, accepted]
    exact h.settled p

theorem State.LinkSound.setCore {s : State} (h : s.LinkSound) (k : Core) : (s.setCore k).LinkSound := h.of_same rfl rfl rfl

theorem State.LinkSound.setArb {s : State} (h : s.LinkSound) (a : Arbiter) : (s.setArb a).LinkSound := h.of_same rfl rfl rfl

theorem State.LinkSound.present {s : State} (h : s.LinkSound) : s.present.LinkSound := by
  obtain ⟨a, same⟩ := s.present_eq
  rw [same]
  exact h.setArb a

/-- Requests that arrive on a link or leave it are not yet accepted. -/
theorem State.LinkSound.setLink {s : State} (h : s.LinkSound) (p : Port) (link : List Request) :
    (s.setPort p { s.port p with link := link }).LinkSound := by
  cases p with
  | acquisition | host => exact h.of_same rfl rfl rfl

theorem issuedOf_setPort (s : State) (p q : Port) (x : PortState) : (s.setPort p x).issuedOf q = s.issuedOf q := by
  rw [State.issuedOf, State.setPort_issued]
  rfl

theorem State.LinkInStep.setPort {s : State} (h : s.LinkInStep) {p : Port} {x : PortState}
    (queue : InStep x.accepted (s.issuedOf p)) : (s.setPort p x).LinkInStep where
  ports := fun q => by
    rw [issuedOf_setPort, State.port_setPort]
    split
    · rename_i same
      rwa [← same]
    · exact h.ports q
  bound := by
    rw [State.setPort_issued]
    exact h.bound
  kept := by
    rw [State.setPort_issued]
    exact h.kept

/-! ### Return (R165) -/

/-- Once the complete entries of the one port that may have some at its head are returned, the link is sound. -/
theorem State.LinkInStep.returnReady {s : State} (h : s.LinkInStep) {p : Port}
    (others : ∀ q, q ≠ p → (s.port q).settled = true) : (s.returnReady p).LinkSound := by
  obtain ⟨k, returned⟩ := returnReady_drained s p
  rw [returned]
  refine State.LinkSound.setCore (State.LinkInStep.linkSound (h.setPort (h.ports p).returned) fun q => ?_) k
  rw [State.port_setPort]
  split
  · exact drained_settled ..
  · rename_i other
    exact others q (Ne.symm other)

/-! ### CLEAR and acceptance (R160, R161, R168, R183) -/

/-- An issued list changed entry by entry, its upstream entries not at all. -/
theorem State.LinkSound.mapIssued {s : State} (h : s.LinkSound) {f : Issued → Issued}
    (owner : ∀ i, (f i).owner = i.owner) (upstream : ∀ i p, i.owner = .port p → f i = i) :
    (s.setIssued (s.issued.map f)).LinkSound := by
  have same (p : Port) : (s.setIssued (s.issued.map f)).issuedOf p = s.issuedOf p := by
    unfold State.issuedOf
    rw [State.setIssued_issued, List.filter_map, List.map_map]
    have ofPort : Issued.ofPort p ∘ f = Issued.ofPort p := funext fun i => by
      simp only [Function.comp_apply, Issued.ofPort, owner]
    rw [ofPort]
    refine List.map_congr_left fun i hi => ?_
    rw [Function.comp_apply, upstream i p (beq_iff_eq.1 (List.mem_filter.1 hi).2)]
  refine State.LinkInStep.linkSound ⟨fun p => ?_, ?_, ?_⟩ fun p => ?_
  · rw [same, State.port_setIssued]
    exact h.inStep.ports p
  · rw [State.setIssued_issued, List.length_map]
    exact h.bound
  · intro i hi p port
    obtain ⟨j, hj, rfl⟩ := List.mem_map.1 hi
    rw [owner] at port
    rw [upstream j p port]
    exact h.kept j hj p port
  · rw [State.port_setIssued]
    exact h.settled p

theorem discard_owner (i : Issued) : i.discard.owner = i.owner := by
  unfold Issued.discard
  split <;> rfl

theorem discard_port {i : Issued} {p : Port} (h : i.owner = .port p) : i.discard = i := by
  unfold Issued.discard
  rw [h]

theorem discardRecord_owner (i : Issued) : i.discardRecord.owner = i.owner := by
  unfold Issued.discardRecord
  split <;> rfl

theorem discardRecord_port {i : Issued} {p : Port} (h : i.owner = .port p) : i.discardRecord = i := by
  unfold Issued.discardRecord
  rw [h]

theorem forgetFetch_settled (q : PortState) : q.forgetFetch.settled = q.settled := by
  unfold PortState.settled PortState.forgetFetch
  cases q.accepted with
  | nil | cons => rfl

/-- CLEAR discards internal requests alone and leaves the host's entries their requests and conditions (R168, R183). -/
theorem State.LinkSound.clear {s : State} (h : s.LinkSound) (b : Block) : (s.clear b).LinkSound := by
  have discarded := h.mapIssued discard_owner fun _ _ => discard_port
  have forgotten : ((s.setIssued (s.issued.map Issued.discard)).setPort .host s.host.forgetFetch).LinkSound := by
    refine State.LinkInStep.linkSound (discarded.inStep.setPort (discarded.inStep.ports .host).forgetFetch) fun q => ?_
    rw [State.port_setPort]
    split
    · exact (forgetFetch_settled _).trans (h.settled .host)
    · exact discarded.settled q
  exact forgotten.of_same rfl rfl rfl

/-- What a write does at its acceptance, before it becomes an entry: something behind the link, or CLEAR. -/
theorem takeWrite_link (s : State) (p : Port) (w : BlockWrite) :
    (∃ k, (s.takeWrite p w).1 = s.setCore k) ∨ ∃ k b, (s.takeWrite p w).1 = (s.setCore k).clear b := by
  have page (b : Nat) : (∃ k, s.takePageWrite b w = s.setCore k) ∨ ∃ k c, s.takePageWrite b w = (s.setCore k).clear c := by
    unfold State.takePageWrite State.takeCommand
    dsimp only
    split
    · split
      · exact .inr ⟨_, _, rfl⟩
      · exact .inl ⟨_, rfl⟩
    · exact .inl ⟨_, rfl⟩
    · exact .inl ⟨_, rfl⟩
  cases p with
  | acquisition =>
    show (∃ k, (s.takeAcquisitionWrite w).1 = _) ∨ _
    unfold State.takeAcquisitionWrite
    split <;> exact .inl ⟨_, rfl⟩
  | host =>
    show (∃ k, (s.takeHostWrite w).1 = _) ∨ ∃ k b, (s.takeHostWrite w).1 = _
    unfold State.takeHostWrite
    split
    · exact .inl ⟨_, rfl⟩
    · exact .inl ⟨_, rfl⟩
    · exact page _
    · exact .inl ⟨s.core, rfl⟩
    · exact .inl ⟨s.core, rfl⟩

theorem clear_length (s : State) (b : Block) (p : Port) : ((s.clear b).port p).accepted.length = (s.port p).accepted.length := by
  cases p with
  | acquisition => rfl
  | host => exact List.length_map _

theorem State.LinkSound.takeWrite {s : State} (h : s.LinkSound) (p : Port) (w : BlockWrite) :
    (s.takeWrite p w).1.LinkSound ∧ ((s.takeWrite p w).1.port p).accepted.length = (s.port p).accepted.length := by
  rcases takeWrite_link s p w with ⟨k, taken⟩ | ⟨k, b, taken⟩
  · rw [taken, State.port_setCore]
    exact ⟨h.setCore k, rfl⟩
  · rw [taken, clear_length, State.port_setCore]
    exact ⟨(h.setCore k).clear b, rfl⟩

/-- An entry that joins a queue with room is not on the memory port, and is returned at once when it is complete and alone. -/
theorem State.LinkSound.join {s : State} (h : s.LinkSound) {p : Port} {e : Accepted} (room : (s.port p).accepted.length < 16)
    (fresh : e.isIssued = false) : ((s.enqueue p e).returnReady p).LinkSound := by
  have joined : (s.enqueue p e).LinkInStep := h.inStep.setPort ((h.inStep.ports p).join room fresh)
  refine joined.returnReady fun q other => ?_
  unfold State.enqueue
  rw [State.port_setPort, if_neg (Ne.symm other)]
  exact h.settled q

theorem writeCondition_not_issued (absorbed : Bool) : (writeCondition absorbed == Condition.issued) = false := by
  cases absorbed <;> rfl

theorem State.LinkSound.acceptFront {s : State} (h : s.LinkSound) {p : Port} (free : s.canAccept p = true) :
    (s.acceptFront p).LinkSound := by
  have room : (s.port p).accepted.length < 16 := by
    unfold State.canAccept at free
    simp only [Bool.and_eq_true, decide_eq_true_eq] at free
    obtain ⟨⟨⟨-, room⟩, -⟩, -⟩ := free
    exact room
  unfold State.acceptFront
  split
  · exact h
  · rename_i r rest _
    have left := h.setLink p rest
    have room' : ((s.setPort p { s.port p with link := rest }).port p).accepted.length < 16 := by
      rw [State.port_setPort_self]
      exact room
    cases r with
    | read addr len => exact left.join room' rfl
    | write w =>
      obtain ⟨taken, length⟩ := left.takeWrite p w
      exact taken.join (length ▸ room') (writeCondition_not_issued _)

theorem State.LinkSound.arrive {s : State} (h : s.LinkSound) (p : Port) (r : Request) : (s.arrive p r).LinkSound := by
  have arrived := h.setLink p ((s.port p).link ++ [r])
  unfold State.arrive
  dsimp only
  split
  · rename_i free
    exact arrived.acceptFront free
  · exact arrived

theorem State.LinkSound.acceptHeld {s : State} (h : s.LinkSound) : s.acceptHeld.LinkSound := by
  unfold State.acceptHeld
  split
  · rename_i acquisition host
    have chosen := h.setCore s.core.choose.2
    dsimp only
    cases s.core.choose.1 with
    | true => exact (chosen.acceptFront (p := .acquisition) acquisition).present
    | false => exact (chosen.acceptFront (p := .host) host).present
  · rename_i acquisition _
    exact (h.acceptFront acquisition).present
  · rename_i _ host
    exact (h.acceptFront host).present
  · exact h

/-! ### Completions (R166, R168) -/

/-- The issued list without its oldest entry, from which one port's queue may still have an entry to complete. -/
theorem issuedOf_cons {s : State} {i : Issued} {rest : List Issued} (issued : s.issued = i :: rest) (p : Port) :
    s.issuedOf p = if i.owner = .port p then i.request :: (s.setIssued rest).issuedOf p else (s.setIssued rest).issuedOf p := by
  unfold State.issuedOf
  rw [issued, State.setIssued_issued, List.filter_cons]
  by_cases owner : i.owner = .port p
  · simp [Issued.ofPort, owner]
  · simp [Issued.ofPort, owner]

theorem State.LinkSound.rest {s : State} (h : s.LinkSound) {i : Issued} {rest : List Issued} (issued : s.issued = i :: rest) :
    rest.length ≤ 16 ∧ ∀ j ∈ rest, ∀ p, j.owner = .port p → j.discarded = false := by
  have bound := h.bound
  have kept := h.kept
  rw [issued] at bound kept
  exact ⟨Nat.le_of_succ_le bound, fun j hj => kept j (List.mem_cons_of_mem i hj)⟩

/-- An internal request that leaves the issued list is in no accepted queue. -/
theorem State.LinkSound.dropInternal {s : State} (h : s.LinkSound) {i : Issued} {rest : List Issued}
    (issued : s.issued = i :: rest) (internal : ∀ p, i.owner ≠ .port p) : (s.setIssued rest).LinkSound := by
  obtain ⟨bound, kept⟩ := h.rest issued
  refine State.LinkInStep.linkSound ⟨fun p => ?_, bound, kept⟩ fun p => ?_
  · rw [State.port_setIssued, ← (issuedOf_cons issued p).trans (if_neg (internal p))]
    exact h.inStep.ports p
  · rw [State.port_setIssued]
    exact h.settled p

/-- The oldest upstream request of the issued list is the oldest issued entry of its port (R166). -/
theorem State.LinkSound.completeUpstream {s : State} (h : s.LinkSound) {i : Issued} {rest : List Issued} {p : Port}
    (issued : s.issued = i :: rest) (owner : i.owner = .port p) (r : Completion) :
    ((s.setIssued rest).completeUpstream p r).LinkSound := by
  obtain ⟨bound, kept⟩ := h.rest issued
  have out : s.issuedOf p = i.request :: (s.setIssued rest).issuedOf p := (issuedOf_cons issued p).trans (if_pos owner)
  have queue := h.inStep.ports p
  rw [out] at queue
  obtain ⟨e, oldest⟩ : ∃ e, (s.port p).accepted.find? Accepted.isIssued = some e := by
    cases none : (s.port p).accepted.find? Accepted.isIssued with
    | some e => exact ⟨e, rfl⟩
    | none =>
      have agrees := queue.agrees
      rw [List.filter_eq_nil_iff.2 (List.find?_eq_none.1 none)] at agrees
      cases agrees
  obtain ⟨onPort, before, after, accepted, older⟩ := List.find?_eq_some_iff_append.1 oldest
  have older' : ∀ x ∈ before, x.isIssued = false := fun x hx => by simpa using older x hx
  rw [completeUpstream_split (s := s.setIssued rest) (by rwa [State.port_setIssued]) onPort older' r]
  rw [accepted] at queue
  have completed := queue.complete (returnedFor e.request r) onPort older'
  generalize before ++ { e with cond := .complete (returnedFor e.request r) } :: after = es at completed ⊢
  have ports (q : Port) : ((s.setIssued rest).completedAt p es e r).port q =
      if p = q then { s.port p with accepted := es } else s.port q := by
    unfold State.completedAt
    rw [State.port_setCore, State.port_setPort, State.port_setIssued, State.port_setIssued]
  have out' (q : Port) : ((s.setIssued rest).completedAt p es e r).issuedOf q = (s.setIssued rest).issuedOf q :=
    issuedOf_setPort (s.setIssued rest) p q _
  have list : ((s.setIssued rest).completedAt p es e r).issued = rest := State.setPort_issued ..
  refine State.LinkInStep.returnReady ⟨fun q => ?_, by rwa [list], by rwa [list]⟩ fun q other => ?_
  · rw [ports, out']
    split
    · rename_i same
      exact same ▸ completed
    · rename_i other
      rw [← (issuedOf_cons issued q).trans (if_neg fun same => other (Owner.port.inj (owner.symm.trans same)))]
      exact h.inStep.ports q
  · rw [ports, if_neg (Ne.symm other)]
    exact h.settled q

/-- The writes of an abandoned placement are the record writer's (R149). -/
theorem State.LinkSound.completeFetch {s : State} (h : s.LinkSound) (r : Request) (c : Completion) :
    (s.completeFetch r c).LinkSound := by
  unfold State.completeFetch
  dsimp only
  split
  · exact ((h.setCore _).mapIssued discardRecord_owner fun _ _ => discardRecord_port).setArb _
  · exact h.setCore _

theorem State.LinkSound.receive {s : State} (h : s.LinkSound) (r : Completion) : (s.receive r).LinkSound := by
  unfold State.receive
  split
  · exact h
  · rename_i i rest issued
    have upstream {p : Port} (owner : i.owner = .port p) : i.discarded = false :=
      h.kept i (issued ▸ List.mem_cons_self) p owner
    unfold State.completeFor
    split
    · rename_i discarded
      exact h.dropInternal issued fun p owner => by rw [upstream owner] at discarded; cases discarded
    · split
      · rename_i p owner
        exact h.completeUpstream issued owner r
      all_goals
        rename_i owner
        have rest := h.dropInternal issued fun p port => nomatch owner.symm.trans port
      · exact rest.setCore _
      · exact rest.completeFetch ..
      · exact rest.setCore _
      · exact rest.setCore _

/-! ### Grants (R169, R170) -/

theorem issuedOf_append {s t : State} {i : Issued} (issued : t.issued = s.issued ++ [i]) (p : Port) :
    t.issuedOf p = s.issuedOf p ++ if i.owner = .port p then [i.request] else [] := by
  unfold State.issuedOf
  rw [issued, List.filter_append, List.map_append]
  by_cases owner : i.owner = .port p
  · simp [Issued.ofPort, owner]
  · simp [Issued.ofPort, owner]

theorem State.LinkSound.appended {s t : State} (h : s.LinkSound) {i : Issued} (issued : t.issued = s.issued ++ [i])
    (room : s.issued.length < 16) (fresh : ∀ p, i.owner = .port p → i.discarded = false) :
    t.issued.length ≤ 16 ∧ ∀ j ∈ t.issued, ∀ p, j.owner = .port p → j.discarded = false := by
  rw [issued]
  refine ⟨by rw [List.length_append]; exact room, fun j hj => ?_⟩
  rcases List.mem_append.1 hj with old | new
  · exact h.kept j old
  · rw [List.mem_singleton.1 new]
    exact fresh

/-- Whether the head of a queue is complete does not change with an entry replaced by one that is complete as little or as
much. -/
theorem settled_replace {q : PortState} {before after : List Accepted} {e e' : Accepted}
    (accepted : q.accepted = before ++ e :: after) (same : e'.isComplete = e.isComplete) :
    { q with accepted := before ++ e' :: after }.settled = q.settled := by
  unfold PortState.settled
  rw [accepted]
  cases before with
  | nil => exact congrArg not same
  | cons => rfl

/-- The oldest waiting entry of a port goes to the end of the issued list. -/
theorem State.LinkSound.grantUpstream {s : State} (h : s.LinkSound) (room : s.issued.length < 16) (p : Port) :
    (s.grantUpstream p).LinkSound := by
  cases oldest : (s.port p).accepted.find? Accepted.isWaiting with
  | none =>
    unfold State.grantUpstream
    dsimp only
    rw [oldest]
    exact h
  | some e =>
    obtain ⟨waits, before, after, accepted, older⟩ := List.find?_eq_some_iff_append.1 oldest
    have older' : ∀ x ∈ before, x.isWaiting = false := fun x hx => by simpa using older x hx
    have notComplete : e.isComplete = false := by
      unfold Accepted.isComplete
      rw [isWaiting_iff.1 waits]
    have queue := h.inStep.ports p
    rw [accepted] at queue
    have granted := queue.issue waits older'
    have settled := (settled_replace (e' := { e with cond := .issued }) accepted notComplete.symm).trans (h.settled p)
    rw [grantUpstream_eq accepted (isWaiting_iff.1 waits) fun x hx =>
      mt isWaiting_iff.2 (Bool.eq_false_iff.1 (older' x hx))]
    generalize before ++ { e with cond := .issued } :: after = es at granted settled ⊢
    obtain ⟨port, others, issued⟩ := s.issuedUpstream_ports p es e s.arb.waitCount
    obtain ⟨bound, kept⟩ := h.appended issued room fun _ _ => rfl
    refine State.LinkInStep.linkSound ⟨fun q => ?_, bound, kept⟩ fun q => ?_
    · rw [issuedOf_append issued]
      by_cases other : q = p
      · rw [other, port, if_pos rfl]
        exact granted
      · rw [others q other, if_neg fun same => other (Owner.port.inj same).symm, List.append_nil]
        exact h.inStep.ports q
    · by_cases other : q = p
      · rw [other, port]
        exact settled
      · rw [others q other]
        exact h.settled q

/-- A grant to an internal requester leaves the queues and issues one internal request, or none. -/
structure State.IssuedInside (s u : State) : Prop where
  acq    : u.acq = s.acq
  host   : u.host = s.host
  issued : u.issued = s.issued ∨ ∃ i, u.issued = s.issued ++ [i] ∧ ∀ p, i.owner ≠ .port p

theorem issueInternal_inside (s : State) (r : Requester) : s.IssuedInside (s.issueInternal r) := by
  cases r with
  | answer =>
    show s.IssuedInside s.issueReply
    unfold State.issueReply
    dsimp only
    split
    · exact ⟨rfl, rfl, .inr ⟨_, rfl, nofun⟩⟩
    · exact ⟨rfl, rfl, .inr ⟨_, rfl, nofun⟩⟩
    · exact ⟨rfl, rfl, .inl rfl⟩
  | engine =>
    show s.IssuedInside s.issueEngine
    unfold State.issueEngine
    dsimp only
    split
    · split
      · exact ⟨rfl, rfl, .inr ⟨_, rfl, nofun⟩⟩
      · exact ⟨rfl, rfl, .inl rfl⟩
    · exact ⟨rfl, rfl, .inr ⟨_, rfl, nofun⟩⟩
    · exact ⟨rfl, rfl, .inl rfl⟩
  | record =>
    show s.IssuedInside s.issueRecord
    unfold State.issueRecord
    split
    · exact ⟨rfl, rfl, .inr ⟨_, rfl, nofun⟩⟩
    · unfold State.issuePlacement
      dsimp only
      split
      · exact ⟨rfl, rfl, .inr ⟨_, rfl, nofun⟩⟩
      · exact ⟨rfl, rfl, .inl rfl⟩

theorem State.LinkSound.issueInternal {s : State} (h : s.LinkSound) (room : s.issued.length < 16) (r : Requester) :
    (s.issueInternal r).LinkSound := by
  obtain ⟨acq, host, none | ⟨i, issued, internal⟩⟩ := issueInternal_inside s r
  · exact h.of_same (by rw [acq]) (by rw [host]) none
  · obtain ⟨bound, kept⟩ := h.appended issued room fun p owner => absurd owner (internal p)
    have ports (p : Port) : (s.issueInternal r).port p = s.port p := by
      cases p with
      | acquisition => exact acq
      | host => exact host
    refine State.LinkInStep.linkSound ⟨fun p => ?_, bound, kept⟩ fun p => ?_
    · rw [ports, issuedOf_append issued, if_neg (internal p), List.append_nil]
      exact h.inStep.ports p
    · rw [ports]
      exact h.settled p

theorem State.LinkSound.grantInRound {s : State} (h : s.LinkSound) (room : s.issued.length < 16) (r : Requester)
    (rest : List Requester) : (s.grantInRound r rest).LinkSound := by
  rw [grantInRound_eq]
  exact (h.issueInternal room r).setArb _

theorem State.LinkSound.choose {s : State} (h : s.LinkSound) (room : s.issued.length < 16) : s.choose.LinkSound := by
  unfold State.choose
  split
  · exact h.grantInRound room ..
  · split
    · exact h
    · exact h.grantUpstream room _
    · exact h.issueInternal room _
    · unfold State.grantBoth
      split
      · exact (h.grantUpstream room _).setArb _
      · exact h.grantInRound room ..

theorem State.LinkSound.grant {s : State} (h : s.LinkSound) : s.grant.LinkSound := by
  unfold State.grant
  dsimp only
  split
  · exact h.present
  · rename_i free
    simp only [Bool.or_eq_true, decide_eq_true_eq, not_or, Nat.not_le] at free
    exact h.present.choose free.2

/-! ### Every command and every step -/

/-- With nothing accepted and nothing issued the link is sound (R171). -/
theorem linkSound_of_empty {s : State} (acq : s.acq.accepted = []) (host : s.host.accepted = []) (issued : s.issued = []) :
    s.LinkSound :=
  reset_linkSound.of_same acq host issued

theorem exec_linkSound {i : Instr} {s t : State} (h : s.LinkSound) (ran : exec i s = .next t) : t.LinkSound := by
  have sample (due : Bool) (e : SampleEvent) : (s.sampleEvent due e).LinkSound := by
    unfold State.sampleEvent
    split
    · exact (h.setCore _).present
    · exact h
  cases i with
  | powerOn _ | linkReset => cases ran; exact linkSound_of_empty rfl rfl rfl
  | linkResetRelease => cases ran; exact (h.of_same (t := s.setLinkReset false) rfl rfl rfl).present
  | acousticRingWrite w | pressureRingWrite w | hostRingWrite w | freezingWrite w | pressureFreeze w =>
    cases ran; exact (h.arrive ..).present
  | forwardedWrite p w => cases ran; exact (h.arrive ..).present
  | readRequest p addr len => cases ran; exact (h.arrive ..).present
  | apply w | start w | stop w | trigger w | thaw w | check w | releaseOne w | releaseChannel w | releaseAll w
  | snapshotChannels w | snapshotPaths w | clear w | unknownCommand w | acknowledge w =>
    cases ran; exact (h.arrive ..).present
  | memoryGrant => cases ran; exact h.grant.present
  | upstreamCompletion r | recordWriteCompletion r | answerWriteCompletion r | fetchReadCompletion r
  | snapshotWriteCompletion r | discardedCompletion r => cases ran; exact (h.receive r).present
  | placement time | stallExpiry time =>
    cases ran; exact ((h.of_same (t := s.setTimeRef time) rfl rfl rfl).setCore _).present
  | pulseStrobeEnd => cases ran; exact (h.setCore _).present
  | fireTimeout e | normalEnd e | guardEnd e | cut e | peakSettled e | continuationEnd e => cases ran; exact sample _ e

end Sys2Proof.Machine

open Sys2Proof Sys2Proof.Machine

/-- Settles O55: acceptance appends an entry that is not issued, a grant moves the oldest waiting entry to the end of the issued
list, a completion takes the oldest issued entry from its front, and the return leaves no complete entry at a head; CLEAR and
abandoned placements touch internal requests alone. -/
theorem linkStaysSound : Obligations.LinkStaysSound := by
  intro s t sound ran
  unfold step at ran
  split at ran
  · cases ran
    exact sound.acceptHeld
  · rename_i c rest _
    exact exec_linkSound (s := { s with pending := rest }) (sound.of_same rfl rfl rfl) ran

end

section
/-! The command unit (R174, R180, R183): what `Core.UnitSound` reads, and that ring writes, records and drains leave it alone. -/

namespace Sys2Proof.Machine

/-! ### What the soundness of the command unit reads -/

theorem Core.UnitSound.of_parts {k k' : Core} {page : Nat} (s : k.UnitSound page)
    (running : k'.unit.running.isSome = k.unit.running.isSome) (due : k'.unit.due = k.unit.due)
    (settings : k'.unit.settings = k.unit.settings) (applied : k'.unit.applied = k.unit.applied) : k'.UnitSound page where
  running := by rw [running, due]; exact s.running
  due := by rw [due]; exact s.due
  valid := by rw [settings]; exact s.valid
  applied := by rw [applied, settings]; exact s.applied

theorem Core.UnitSound.of_unitView {k k' : Core} {page : Nat} (s : k.UnitSound page) (h : k'.unit.view = k.unit.view) :
    k'.UnitSound page :=
  s.of_parts (congrArg (fun v : UnitView => v.running.isSome) h) (congrArg UnitView.due h) (congrArg UnitView.settings h)
    (congrArg UnitView.applied h)

theorem unitView_of_view {k k' : Core} (h : k'.view = k.view) : k'.unit.view = k.unit.view := congrArg View.unit h

theorem Core.UnitSound.of_view {k k' : Core} {page : Nat} (s : k.UnitSound page) (h : k'.view = k.view) : k'.UnitSound page :=
  s.of_unitView (unitView_of_view h)

/-! ### Acoustic writes (R11) -/

theorem position_unitView (k : Core) (c : Chan) (n : Nat) (full : Bool) : (k.position c n full).1.unit.view = k.unit.view := by
  have fault : ∀ i, (k.raiseFault i).unit.view = k.unit.view := fun i => unitView_of_view (k.raiseFault_view i)
  have skip : ∀ d, (k.takeSkip c n d).1.unit.view = k.unit.view := by
    intro d
    have reported : ((k.acousticFault c .skip n (some d)).reportSkip c).unit.view = k.unit.view :=
      (unitView_of_view (Core.reportSkip_view _ c)).trans (fault _)
    unfold Core.takeSkip
    dsimp only
    split <;> exact reported
  unfold Core.position
  dsimp only
  split
  · rfl
  · exact fault _
  · rfl
  · rfl
  · rfl
  · exact skip _
  · exact fault _

theorem detectStage_view (k : Core) (c : Chan) (n : Nat) (start : Option Nat) (data : Block) :
    (k.detectStage c n start data).view = k.view := by
  unfold Core.detectStage
  split
  · exact k.takeBlock_view c n _ data
  · rfl

theorem guardStage_unitView (k : Core) (c : Chan) (n : Nat) (absorbs : Bool) (held : Option (Fin 64)) (start : Option Nat) :
    (k.guardStage c n absorbs held start).1.unit.view = k.unit.view := by
  have frozen : (if k.freezesAtWrite c start then (k.freezeRing c .atWrite).allFrozenTest else k).unit.view = k.unit.view := by
    split
    · exact unitView_of_view ((Core.allFrozenTest_view _).trans (k.freezeRing_view c _))
    · rfl
  unfold Core.guardStage
  dsimp only
  split
  · exact (unitView_of_view (Core.countAbsorbed_view _ c held)).trans frozen
  · exact frozen

theorem timeStage_unitView (k : Core) (c : Chan) (start : Option Nat) (found : Bool) :
    (k.timeStage c start found).unit.view = k.unit.view := by
  unfold Core.timeStage
  split
  · rename_i st
    have counted : (k.setCount c (st / 32 + 1)).unit.view = k.unit.view := rfl
    unfold Core.recordTime
    refine Eq.trans (unitView_of_view ?_) counted
    rw [Core.recomputeHorizon_view, Core.stallTests_view, Core.recomputeLead_view]
  · rfl

theorem acousticWrite_unitView (k : Core) (c : Chan) (n : Nat) (w : BlockWrite) :
    (k.acousticWrite c n w).1.unit.view = k.unit.view := by
  unfold Core.acousticWrite
  dsimp only
  rw [timeStage_unitView, guardStage_unitView, unitView_of_view (detectStage_view ..), position_unitView]

theorem hostAcousticWrite_view (k : Core) (c : Chan) (n : Nat) : (k.hostAcousticWrite c n).1.view = k.view := by
  unfold Core.hostAcousticWrite
  split
  · exact k.countAbsorbed_view c _
  · rfl

/-! ### Pressure writes (R12, R91) -/

theorem pressurePosition_unitView (k : Core) (n : Nat) (full : Bool) :
    (k.pressurePosition n full).1.unit.view = k.unit.view := by
  have fault : ∀ i, (k.raiseFault i).unit.view = k.unit.view := fun i => unitView_of_view (k.raiseFault_view i)
  have skip : ∀ d, (k.takePressureSkip n d).1.unit.view = k.unit.view := by
    intro d
    have faulted : (k.pressureFault .skip n (some d)).unit.view = k.unit.view := fault _
    unfold Core.takePressureSkip
    dsimp only
    split <;> exact faulted
  unfold Core.pressurePosition
  dsimp only
  split
  · rfl
  · exact fault _
  · rfl
  · rfl
  · rfl
  · exact skip _
  · exact fault _

theorem evaluatePhase_unitView (k : Core) (number : Nat) : (k.evaluatePhase number).unit.view = k.unit.view := by
  unfold Core.evaluatePhase
  dsimp only
  split
  · rfl
  · exact unitView_of_view (Core.handSheddable_view _ _)

theorem triggerTest_unitView (k : Core) : k.triggerTest.unit.view = k.unit.view := by
  unfold Core.triggerTest
  split
  · exact unitView_of_view (Core.dispatchTrigger_view (k.setMonitor { k.monitor with arming := .spent }) .pressure)
  · rfl

theorem monitorStage_unitView (k : Core) (number : Option Nat) (data : Block) :
    (k.monitorStage number data).1.unit.view = k.unit.view := by
  have tested : ∀ (k : Core) m, (k.evaluatePhase m).triggerTest.unit.view = k.unit.view := fun k m =>
    (triggerTest_unitView _).trans (evaluatePhase_unitView k m)
  unfold Core.monitorStage
  split
  · unfold Core.takePressureBlock
    dsimp only
    split
    · exact tested _ _
    · exact tested _ _
  · rfl

theorem pressureWrite_unitView (k : Core) (n : Nat) (w : BlockWrite) :
    (k.pressureWrite n w).1.unit.view = k.unit.view := by
  have heard := (monitorStage_unitView (k.pressurePosition n (w.mask == fullMask)).1
    (k.pressurePosition n (w.mask == fullMask)).2 w.data).trans (pressurePosition_unitView k n _)
  unfold Core.pressureWrite
  dsimp only
  split <;> exact heard

/-! ### The record writer (R137 to R139, R141, R148) -/

theorem considerHead_unitView (k : Core) (now : BitVec 32) : (k.considerHead now).unit.view = k.unit.view := by
  have shed : k.shedHeads.unit.view = k.unit.view := unitView_of_view k.shedHeads_view
  have begun : ∀ (k : Core) r rest, (k.beginPlacement r rest).unit.view = k.unit.view := fun _ _ _ =>
    Eq.trans (unitView_of_view (Core.shedHeads_view _)) rfl
  unfold Core.considerHead
  dsimp only
  split
  · exact shed
  · split
    · exact shed
    · split
      · exact (begun ..).trans shed
      · exact (unitView_of_view (headBlocked_view ..)).trans shed

theorem recordWritten_unitView (k : Core) : k.recordWritten.unit.view = k.unit.view := by
  unfold Core.recordWritten
  split
  · rfl
  · dsimp only
    split
    · exact Eq.trans (unitView_of_view (publish_view ..)) rfl
    · rfl

theorem halt_unitView (k : Core) : k.halt.unit.view = k.unit.view := by
  unfold Core.halt
  split
  · rfl
  · exact Eq.trans (unitView_of_view ((Core.markDirty_view _).trans (Core.endStall_view _))) rfl

theorem recordCompleted_unitView (k : Core) (r : Completion) : (k.recordCompleted r).unit.view = k.unit.view := by
  unfold Core.recordCompleted
  split
  · rfl
  · split
    · exact recordWritten_unitView k
    · exact halt_unitView k

theorem drainRead_unitView (k : Core) (ps : List Place) : (k.drainRead ps).unit.view = k.unit.view := by
  unfold Core.drainRead
  dsimp only
  split
  · rfl
  · exact Eq.trans (unitView_of_view (Core.exitTest_view _)) rfl

theorem hostReadReturned_unitView (k : Core) (ps : List Place) : (k.hostReadReturned ps).unit.view = k.unit.view :=
  (drainRead_unitView _ ps).trans (unitView_of_view (k.readRelease_view ps))

end Sys2Proof.Machine
end

section
/-! The command unit stays sound (R174, R180, R183): answers formed and written, activations, commands, CLEAR and the resets,
and so every step. -/

namespace Sys2Proof.Machine

/-! ### Answers formed and written (R174) -/

/-- The running command ends: nothing was due beside it, and its answer is due now. -/
theorem Core.UnitSound.endRunning {k : Core} {page : Nat} (s : k.UnitSound page) (running : k.unit.running.isSome = true)
    (a : Answer) : (k.endRunning a).UnitSound page where
  running := nofun
  due := by
    show (k.unit.due ++ [a]).length ≤ 2
    rw [s.running running]
    exact Nat.le_succ 1
  valid := s.valid
  applied := s.applied

/-- A command that was taken in READY and touched nothing of the command unit but run state, causes and dirty mark is
answered. -/
theorem Core.UnitSound.answered {k k' : Core} {page : Nat} (s : k.UnitSound page) (ready : k.unit.busy = false)
    (kept : k'.unit.view = k.unit.view) (b : Block) (r : AnswerResult) (d : AnswerDetail) :
    (k'.answer b r d).UnitSound page := by
  obtain ⟨idle, empty⟩ := busy_due ready
  have idle' : k'.unit.running = none := (congrArg UnitView.running kept).trans idle
  have empty' : k'.unit.due = [] := (congrArg UnitView.due kept).trans empty
  have s' := s.of_unitView kept
  rw [answer_eq empty']
  exact { running := fun runs => absurd (idle' ▸ runs) nofun, due := Nat.le_succ 1, valid := s'.valid, applied := s'.applied }

/-- The oldest answer due has been written and leaves the answers due. -/
theorem Core.UnitSound.answerWritten {k : Core} {page : Nat} (s : k.UnitSound page) : k.answerWritten.UnitSound page := by
  unfold Core.answerWritten
  split
  · exact s
  · rename_i a rest due
    have length := s.due
    rw [due] at length
    exact {
      running := fun runs => by cases due.symm.trans (s.running runs)
      due := Nat.le_of_succ_le length
      valid := s.valid
      applied := s.applied }

theorem Core.UnitSound.answerCompleted {k : Core} {page : Nat} (s : k.UnitSound page) (w : AnswerWrite) (r : Completion) :
    (k.answerCompleted w r).UnitSound page := by
  have free : (k.setUnit { k.unit with awaiting := false }).UnitSound page := s.of_parts rfl rfl rfl rfl
  unfold Core.answerCompleted
  dsimp only
  split
  · exact free
  · split
    · exact free.of_unitView (halt_unitView _)
    · exact free.answerWritten
    · exact free
    · exact free

/-! ### The long commands (R178 to R182) -/

theorem Core.UnitSound.snapshotCompleted {k : Core} {page : Nat} (s : k.UnitSound page) (r : Completion) :
    (k.snapshotCompleted r).UnitSound page := by
  have written : k.snapshotWritten.UnitSound page := by
    unfold Core.snapshotWritten
    split
    · rename_i running
      split
      · exact s.endRunning (by rw [running]; rfl) _
      · exact s.of_parts (by rw [running]; rfl) rfl rfl rfl
    · exact s
    · exact s
  unfold Core.snapshotCompleted
  split
  · exact s
  · split
    · exact written
    · exact s.of_unitView (halt_unitView k)

/-- Settings that pass validation are activated. -/
theorem Core.UnitSound.activate {k : Core} {page : Nat} (s : k.UnitSound page) {st : Settings} (valid : firstBad page st = none)
    (paths : Option (Vector (Vector (BitVec 12) 32) 32)) : (k.activate st paths).UnitSound page := by
  have unit := activate_unitView k st paths
  have running : (k.activate st paths).unit.running = k.unit.running := congrArg UnitView.running unit
  have due : (k.activate st paths).unit.due = k.unit.due := congrArg UnitView.due unit
  have settings : (k.activate st paths).unit.settings = some st := congrArg UnitView.settings unit
  have applied : (k.activate st paths).unit.applied = true := congrArg UnitView.applied unit
  constructor
  · rw [running, due]; exact s.running
  · rw [due]; exact s.due
  · rw [settings]
    rintro _ ⟨⟩
    exact valid
  · rw [settings]; exact applied

theorem Core.UnitSound.decideApply {k : Core} {page : Nat} (s : k.UnitSound page) (running : k.unit.running.isSome = true)
    (tag : Num) (paths : Bool) (f : Fetch) : (k.decideApply page tag paths f).UnitSound page := by
  unfold Core.decideApply
  dsimp only
  split
  · exact s.endRunning running _
  · split
    · exact s.endRunning running _
    · split
      · exact s.endRunning running _
      · split
        · exact s.endRunning running _
        · rename_i valid
          refine (s.activate valid _).endRunning ?_ _
          exact (congrArg (fun v : UnitView => v.running.isSome) (activate_unitView k _ _)).trans running

theorem Core.UnitSound.fetchCompleted {k : Core} {page : Nat} (s : k.UnitSound page) (lines : Option (List Block)) :
    (k.fetchCompleted page lines).UnitSound page := by
  unfold Core.fetchCompleted
  split
  · rename_i running
    dsimp only
    split
    · exact s.decideApply (by rw [running]; rfl) ..
    · exact s.of_parts (by rw [running]; rfl) rfl rfl rfl
  · exact s
  · exact s

theorem Core.UnitSound.startFetch {k : Core} {page : Nat} (s : k.UnitSound page) : k.startFetch.UnitSound page := by
  unfold Core.startFetch
  split
  · rename_i running
    exact s.of_parts (by rw [running]; rfl) rfl rfl rfl
  · exact s
  · exact s

theorem Core.UnitSound.reportPageWrite {k : Core} {page : Nat} (s : k.UnitSound page) (b : Nat) :
    (k.reportPageWrite b).UnitSound page := by
  unfold Core.reportPageWrite
  split
  · split
    · exact s.of_parts rfl rfl rfl rfl
    · exact s
  · exact s
  · exact s

/-! ### Commands (R173, R175 to R178, R182, R183) -/

/-- CLEAR ends a running command and keeps the last two answers; the settings stay. -/
theorem Core.UnitSound.clear {k : Core} {page : Nat} (s : k.UnitSound page) (b : Block) : (k.clear b).UnitSound page where
  running := nofun
  due := by
    show (lastTwo _).length ≤ 2
    unfold lastTwo
    rw [List.length_drop]
    omega
  valid := s.valid
  applied := s.applied

/-- A long command begins in READY, where no answer is due. -/
theorem Core.UnitSound.begin {k : Core} {page : Nat} (s : k.UnitSound page) (ready : k.unit.busy = false) (r : Running)
    (disturbed : Bool) :
    (k.setUnit { k.unit with running := some r, disturbed := disturbed, dirty := true }).UnitSound page where
  running := fun _ => (busy_due ready).2
  due := s.due
  valid := s.valid
  applied := s.applied

theorem stopRun_unitView (k : Core) : k.stopRun.unit.view = k.unit.view := by
  have stopped := (stopRun_spec k).unit
  generalize k.stopRun.unit = u at stopped ⊢
  exact (congrArg CommandUnit.view stopped :)

theorem takeCheck_unitView (k : Core) (c : Chan) (window : Nat) (update : Bool) :
    (k.takeCheck c window update).unit.view = k.unit.view :=
  forChans_keeps (fun k => k.unit.view) (fun k c => unitView_of_view (k.enterCheckAtStart_view c)) k

theorem Core.UnitSound.takeReady {k : Core} {page : Nat} (s : k.UnitSound page) (ready : k.unit.busy = false) (b : Block) :
    (k.takeReady b).UnitSound page := by
  have refused : ∀ r, (k.refuse b r).UnitSound page := fun r => s.answered ready rfl b r .plain
  unfold Core.takeReady
  split
  · exact s.begin ready _ false
  · unfold Core.takeStart
    split
    · exact refused _
    · split
      · exact refused _
      · split
        · exact refused _
        · exact s.answered ready (k' := k.startRun) rfl ..
  · unfold Core.takeStop
    split
    · exact refused _
    · exact s.answered ready (stopRun_unitView k) ..
  · unfold Core.takeTriggerCommand
    split
    · exact refused _
    · exact s.answered ready (unitView_of_view (k.dispatchTrigger_view .command)) ..
  · unfold Core.takeThaw
    split
    · exact refused _
    · split
      · exact refused _
      · exact s.answered ready (k' := k.thaw) rfl ..
  · unfold Core.takeCheckCommand
    split
    · exact refused _
    · split
      · exact refused _
      · exact s.answered ready (takeCheck_unitView ..) ..
  · unfold Core.takeRelease
    split
    · exact refused _
    · exact s.answered ready (unitView_of_view (k.releaseList_view _)) ..
  · unfold Core.takeSnapshot
    split
    · exact refused _
    · exact s.begin ready _ k.unit.disturbed
  · exact s.clear b
  · exact refused _

theorem Core.UnitSound.takeCommand {k : Core} {page : Nat} (s : k.UnitSound page) (b : Block) :
    (k.takeCommand b).UnitSound page := by
  unfold Core.takeCommand
  split
  · exact s.clear b
  · split
    · exact s.of_parts rfl rfl rfl rfl
    · rename_i ready
      exact s.takeReady (Bool.eq_false_of_not_eq_true ready) b

/-! ### Every operation -/

theorem Core.Op.unitSound {page : Nat} {k k' : Core} (h : Core.Op page k k') (s : k.UnitSound page) : k'.UnitSound page := by
  cases h with
  | acousticWrite c n w => exact s.of_unitView (acousticWrite_unitView k c n w)
  | pressureWrite n w => exact s.of_unitView (pressureWrite_unitView k n w)
  | hostAcousticWrite c n => exact s.of_view (hostAcousticWrite_view k c n)
  | raiseForeign a => exact s.of_view (k.raiseFault_view _)
  | reportPageWrite b => exact s.reportPageWrite b
  | hostReadReturned ps => exact s.of_unitView (hostReadReturned_unitView k ps)
  | raiseDownstream a x =>
    unfold Core.raiseDownstream
    split
    · exact s.of_view (k.raiseFault_view _)
    · exact s.of_view (k.raiseFault_view _)
    all_goals exact s
  | startFetch => exact s.startFetch
  | answerCompleted w r => exact s.answerCompleted w r
  | recordCompleted r => exact s.of_unitView (recordCompleted_unitView k r)
  | snapshotCompleted r => exact s.snapshotCompleted r
  | fetchCompleted lines => exact s.fetchCompleted lines
  | issueFetch tag paths f running | issueSnapshot tag x granted completed running =>
    exact s.of_parts (by rw [running]; rfl) rfl rfl rfl
  | acknowledge | issueAnswer | issueStatus | issuePlacement | endStrobe | choose => exact s.of_parts rfl rfl rfl rfl
  | considerHead now => exact s.of_unitView (considerHead_unitView k now)
  | stallExpiry now => exact s.of_view (stallExpiry_view k now)
  | takeSample c i t x => exact s.of_view (k.takeSample_view c i t x)

theorem Core.StepsTo.unitSound {page : Nat} {k k' : Core} (h : Core.StepsTo page k k') (s : k.UnitSound page) :
    k'.UnitSound page := by
  rcases h with h | ⟨n, b, pss, rfl⟩
  · induction h with
    | refl => exact s
    | tail _ op ih => exact op.unitSound ih
  · have chosen : (k.setChoices n).UnitSound page := s.of_parts rfl rfl rfl rfl
    exact (chosen.takeCommand b).of_unitView (foldl_keeps (fun k => k.unit.view) hostReadReturned_unitView pss _)

end Sys2Proof.Machine
end

section
/-! The strap lines are sampled at power-on alone (R162), so the control page that validation keeps clear stands where it was; with
that the command unit stays sound under every step. -/

namespace Sys2Proof.Machine

/-! ### Acceptance and return (R161, R165) -/

theorem returnReady_strap (s : State) (p : Port) : (s.returnReady p).strap = s.strap := by
  obtain ⟨k, returned⟩ := returnReady_drained s p
  rw [returned, State.setCore_strap, State.setPort_strap]

theorem takeWrite_strap (s : State) (p : Port) (w : BlockWrite) : (s.takeWrite p w).1.strap = s.strap := by
  rcases takeWrite_link s p w with ⟨k, taken⟩ | ⟨k, b, taken⟩
  · rw [taken, State.setCore_strap]
  · rw [taken]
    rfl

theorem acceptRequest_strap (s : State) (p : Port) (r : Request) : (s.acceptRequest p r).strap = s.strap := by
  cases r with
  | read addr len => exact s.setPort_strap p _
  | write w => exact (State.setPort_strap _ p _).trans (takeWrite_strap s p w)

theorem acceptFront_strap (s : State) (p : Port) : (s.acceptFront p).strap = s.strap := by
  unfold State.acceptFront
  split
  · rfl
  · rw [returnReady_strap, acceptRequest_strap, State.setPort_strap]

theorem arrive_strap (s : State) (p : Port) (r : Request) : (s.arrive p r).strap = s.strap := by
  unfold State.arrive
  dsimp only
  split
  · rw [acceptFront_strap, State.setPort_strap]
  · rw [State.setPort_strap]

theorem acceptHeld_strap (s : State) : s.acceptHeld.strap = s.strap := by
  have accepted : ∀ (s : State) p, (s.acceptOn p).strap = s.strap := fun s p =>
    (State.present_strap _).trans (acceptFront_strap s p)
  unfold State.acceptHeld
  split
  · exact accepted (s.setCore s.core.choose.2) _
  · exact accepted s _
  · exact accepted s _
  · rfl

/-! ### Completions and grants (R166, R169) -/

theorem completeUpstream_strap (s : State) (p : Port) (r : Completion) : (s.completeUpstream p r).strap = s.strap := by
  unfold State.completeUpstream
  dsimp only
  split
  · rfl
  · rw [returnReady_strap, State.setCore_strap, State.setPort_strap]

theorem receive_strap (s : State) (r : Completion) : (s.receive r).strap = s.strap := by
  unfold State.receive
  split
  · rfl
  · rename_i i rest _
    unfold State.completeFor
    split
    · rfl
    · split
      · exact completeUpstream_strap (s.setIssued rest) _ r
      · rfl
      · unfold State.completeFetch
        dsimp only
        split <;> rfl
      · rfl
      · rfl

theorem issueInternal_strap (s : State) (r : Requester) : (s.issueInternal r).strap = s.strap := by
  cases r with
  | answer =>
    show s.issueReply.strap = _
    unfold State.issueReply
    dsimp only
    split <;> rfl
  | engine =>
    show s.issueEngine.strap = _
    unfold State.issueEngine
    dsimp only
    split
    · split <;> rfl
    · rfl
    · rfl
  | record =>
    show s.issueRecord.strap = _
    unfold State.issueRecord
    split
    · rfl
    · unfold State.issuePlacement
      dsimp only
      split <;> rfl

theorem grantUpstream_strap (s : State) (p : Port) : (s.grantUpstream p).strap = s.strap := by
  unfold State.grantUpstream
  dsimp only
  split
  · exact s.setPort_strap p _
  · rfl

theorem choose_strap (s : State) : s.choose.strap = s.strap := by
  have inRound : ∀ r rest, (s.grantInRound r rest).strap = s.strap := by
    intro r rest
    rw [grantInRound_eq]
    exact issueInternal_strap s r
  unfold State.choose
  split
  · exact inRound _ _
  · split
    · rfl
    · exact grantUpstream_strap s _
    · exact issueInternal_strap s _
    · unfold State.grantBoth
      split
      · exact grantUpstream_strap s _
      · exact inRound _ _

theorem grant_strap (s : State) : s.grant.strap = s.strap := by
  unfold State.grant
  dsimp only
  split
  · exact s.present_strap
  · rw [choose_strap, State.present_strap]

/-! ### Every command and every step -/

theorem exec_strap {i : Instr} {s t : State} (hi : isReset i = false) (ran : exec i s = .next t) : t.strap = s.strap := by
  have presented : ∀ u : State, u.strap = s.strap → u.present.strap = s.strap := fun u h => u.present_strap.trans h
  cases i with
  | powerOn _ | linkReset => cases hi
  | linkResetRelease | placement _ | stallExpiry _ | pulseStrobeEnd => cases ran; exact presented _ rfl
  | acousticRingWrite w | pressureRingWrite w | hostRingWrite w | freezingWrite w | pressureFreeze w =>
    cases ran; exact presented _ (arrive_strap ..)
  | forwardedWrite p w => cases ran; exact presented _ (arrive_strap ..)
  | readRequest p addr len => cases ran; exact presented _ (arrive_strap ..)
  | apply w | start w | stop w | trigger w | thaw w | check w | releaseOne w | releaseChannel w | releaseAll w
  | snapshotChannels w | snapshotPaths w | clear w | unknownCommand w | acknowledge w =>
    cases ran; exact presented _ (arrive_strap ..)
  | memoryGrant => cases ran; exact presented _ (grant_strap s)
  | upstreamCompletion r | recordWriteCompletion r | answerWriteCompletion r | fetchReadCompletion r
  | snapshotWriteCompletion r | discardedCompletion r => cases ran; exact presented _ (receive_strap s r)
  | fireTimeout e | normalEnd e | guardEnd e | cut e | peakSettled e | continuationEnd e =>
    cases ran
    unfold State.sampleEvent
    split
    · exact presented _ rfl
    · rfl

/-- A step resets the part, or the control page stays where it is. -/
theorem step_pageBase {s t : State} (h : step s = .next t) :
    (∃ c rest, s.pending = c :: rest ∧ isReset c = true) ∨ t.pageBase = s.pageBase := by
  have page : t.strap = s.strap → t.pageBase = s.pageBase := congrArg fun b : BitVec 16 => b.toNat * 16384
  unfold step at h
  split at h
  · cases h
    exact .inr (page (acceptHeld_strap s))
  · rename_i c rest front
    cases hc : isReset c with
    | true => exact .inl ⟨c, rest, front, hc⟩
    | false => exact .inr (page (exec_strap (s := { s with pending := rest }) hc h))

/-- After a reset no command runs, no answer is due and no settings are active (R187). -/
theorem reset_unitSound (path : Vector (Vector (BitVec 12) 32) 32) (n page : Nat) : (Core.reset path n).UnitSound page where
  running := nofun
  due := Nat.zero_le _
  valid := nofun
  applied := rfl

end Sys2Proof.Machine

open Sys2Proof Sys2Proof.Machine

/-- Settles O56: an answer is formed where a command ends, or in READY with none due; CLEAR keeps two; settings are activated
where no test of validation fails, and between resets the control page that they were validated against stays. -/
theorem commandsStaySound : Obligations.CommandsStaySound := by
  intro s t sound h
  unfold State.CommandSound at sound ⊢
  rcases step_core h with ⟨_, _, _, _, path, n, e⟩ | e
  · rw [e]
    exact reset_unitSound path n t.pageBase
  · rcases step_pageBase h with ⟨c, rest, front, reset⟩ | page
    · unfold step at h
      rw [front] at h
      obtain ⟨path, n, e⟩ := exec_reset reset h
      rw [e]
      exact reset_unitSound path n t.pageBase
    · rw [page]
      exact e.unitSound sound

end

section
/-! Commands taken, refused and acknowledged at a ready host port (R153, R173, R178, R182, R185). -/

namespace Sys2Proof.Machine

/-! ### BUSY and the long commands (R173, R178, R182) -/

/-- Every command but CLEAR is refused in BUSY. -/
theorem takeCommand_busy {k : Core} {b : Block} (notClear : isClear b = false) (busy : k.unit.busy = true) :
    k.takeCommand b = k.refuseBusy b := by
  unfold Core.takeCommand
  rw [if_neg (by rw [notClear]; nofun), if_pos busy]

/-- In BUSY no fetch waits for a command's own write. -/
theorem beginsApply_busy {k : Core} (busy : k.unit.busy = true) (b : Block) : k.beginsApply b = false := by
  unfold Core.beginsApply
  rw [busy]
  rfl

theorem beginsApply_ready {k : Core} {b : Block} (ready : k.unit.busy = false) (kind : commandKind (commandCode b) = .apply) :
    k.beginsApply b = true := by
  unfold Core.beginsApply
  rw [ready, kind]
  rfl

theorem takeReady_apply {k : Core} {b : Block} (kind : commandKind (commandCode b) = .apply) : k.takeReady b = k.takeApply b := by
  unfold Core.takeReady
  rw [kind]

theorem takeReady_snapshot {k : Core} {b : Block} {target : SnapshotTarget}
    (kind : commandKind (commandCode b) = .snapshot) (names : targetOf (snapshotTarget b) = some target) :
    k.takeReady b = k.setUnit { k.unit with running := some (.snapshot (commandTag b) target 0 0), dirty := true } := by
  unfold Core.takeReady Core.takeSnapshot
  rw [kind, names]

/-! ### ACKNOWLEDGE (R185) -/

/-- The write to block 1 acknowledges causes behind the link and waits in the host queue. -/
theorem acknowledge_taken {s : State} {w : PageWrite} (ready : s.Ready .host) :
    s.PageTaken (s.arrivePage 1 w) 1 w false ∧
      (s.arrivePage 1 w).core = s.core.acknowledge (byteAt (pageData w) 0) := by
  unfold State.arrivePage
  rw [State.arrive_acknowledge s w ready]
  refine ⟨⟨⟨State.present_strap _, State.present_linkReset _, State.present_timeRef _, State.present_pending _,
    State.present_lastGrant _⟩, State.present_host _, State.present_acq _, State.present_issued _⟩, State.present_core _⟩

end Sys2Proof.Machine

open Sys2Proof Sys2Proof.Machine

/-- Settles O7: in BUSY the first case of R173 that applies to a command other than CLEAR is the refusal. -/
theorem busyRefuses : Obligations.BusyRefuses := by
  intro w s ready notClear busy i row
  have other := isClear_false rfl notClear
  exact command_done ready (exec_commandsOf row s) other (beginsApply_busy busy _) (takeCommand_busy other busy)

/-- Settles O16: in READY the command is taken at once and becomes the running one; of the two APPLY alone has its own write
marked. -/
theorem longCommandsBegin : Obligations.LongCommandsBegin := by
  intro w s ready idle
  refine ⟨fun kind => ?_, fun i target kind row => ?_⟩
  · exact command_done ready rfl (isClear_false kind nofun) (beginsApply_ready idle kind)
      ((ready_core kind nofun idle).trans (takeReady_apply kind))
  · have names : i ∈ commandsOf w ∧ targetOf (snapshotTarget (pageData w)) = some target := by
      rcases row with ⟨rfl, code, rfl⟩ | ⟨rfl, code, rfl⟩
      · exact ⟨by simp [commandsOf], by rw [code]; rfl⟩
      · exact ⟨by simp [commandsOf], by rw [code]; rfl⟩
    obtain ⟨row, names⟩ := names
    obtain ⟨t, ht, page, core⟩ := command_run ready idle kind nofun nofun (exec_commandsOf row s)
    exact ⟨t, ht, page, core.trans (takeReady_snapshot kind names)⟩

/-- Settles O17: the write is to block 1, where nothing but the pending causes and the dirty mark is touched. -/
theorem acknowledgeClearsCauses : Obligations.AcknowledgeClearsCauses := by
  intro w s ready
  obtain ⟨page, core⟩ := acknowledge_taken (w := w) ready
  exact ⟨_, rfl, page, core⟩

end

section
/-! CLEAR (R168, R183): what it makes of the blocks behind the link, of the link and of what stands presented. -/

namespace Sys2Proof.Machine

/-! ### Behind the link (R183) -/

/-- What `Core.AllReset` reads, CLEAR sets as link reset does. -/
theorem clear_allReset (k : Core) (b : Block) : (k.clear b).AllReset := { reset_allReset k.group.path k.choices with }

/-- The last two of a list, or all of it when there are no more. -/
theorem lastTwo_spec (as : List Answer) :
    as.take (as.length - 2) ++ lastTwo as = as ∧ (lastTwo as).length = min 2 as.length := by
  unfold lastTwo
  refine ⟨List.take_append_drop .., ?_⟩
  rw [List.length_drop]
  omega

/-! ### The issued list and the presentations (R168) -/

theorem discard_request (i : Issued) : i.discard.request = i.request := by
  unfold Issued.discard
  split <;> rfl

theorem discard_internal {i : Issued} (internal : ∀ p, i.owner ≠ .port p) : i.discard.discarded = true := by
  unfold Issued.discard
  split
  · rename_i p owner
    exact absurd owner (internal p)
  all_goals rfl

/-- A presentation of the answer and status writer stands until it is granted, unless the part is halted (R168). -/
theorem replyPresented_kept {s : State} (running : s.core.writer.halted = false) (presented : s.arb.answer ≠ none) :
    s.replyPresented = s.arb.answer := by
  unfold State.replyPresented
  rw [if_neg (by rw [running]; nofun), if_pos (Option.isSome_iff_ne_none.2 presented)]

/-- Once no command runs, no placement is in progress and none has been abandoned, only the answer and status writer
presents. -/
theorem present_idle {s : State} (line : s.linkReset = false) (idle : s.core.unit.running = none)
    (placement : s.core.writer.placement = none) (halted : s.core.writer.halted = false) (abandoned : s.arb.abandoned = none) :
    s.present.arb.engine = false ∧ s.present.arb.record = false ∧ s.present.arb.abandoned = none ∧
      (s.arb.answer ≠ none → s.present.arb.answer = s.arb.answer) := by
  have engine : s.core.enginePresents = false := by
    unfold Core.enginePresents
    rw [idle]
  have record : s.core.recordPresents = false := by
    unfold Core.recordPresents
    rw [placement, Bool.and_false]
  refine ⟨?_, ?_, (State.present_abandoned s halted).trans abandoned, fun presented => ?_⟩
  · rw [present_arb line]
    exact engine
  · rw [State.present_record s line, record, Bool.false_and]
  · rw [present_arb line]
    exact replyPresented_kept halted presented

/-! ### The write that carries CLEAR (R161, R168) -/

/-- The state after a write of CLEAR has been taken and has joined the host queue, before the presentations. -/
def State.cleared (s : State) (w : PageWrite) : State :=
  (s.clear (pageData w)).enqueue .host (s.pageEntry 0 w (s.core.beginsApply (pageData w)))

theorem arrive_clear {s : State} {w : PageWrite} (ready : s.Ready .host)
    (kind : commandKind (commandCode (pageData w)) = .clear) : s.arrive .host (s.pageRequest 0 w) = s.cleared w := by
  have taken : s.takeCommand (pageData w) = s.clear (pageData w) := if_pos (beq_iff_eq.2 kind)
  rw [State.arrive_command s w ready, taken]
  rfl

/-- The entries of the host queue keep their requests and conditions, and the write of CLEAR waits behind them. -/
theorem cleared_host (s : State) (w : PageWrite) :
    (s.cleared w).host.returned = s.host.returned ∧ (s.cleared w).host.link = s.host.link ∧
      (s.cleared w).host.accepted.map Accepted.request =
        s.host.accepted.map Accepted.request ++ [.write { addr := s.pageAddr 0, data := w.data, mask := w.mask }] ∧
      (s.cleared w).host.accepted.map Accepted.cond = s.host.accepted.map Accepted.cond ++ [.waiting] := by
  have accepted : (s.cleared w).host.accepted = s.host.accepted.map (fun e => { e with startsFetch := false }) ++
      [s.pageEntry 0 w (s.core.beginsApply (pageData w))] := rfl
  refine ⟨rfl, rfl, ?_, ?_⟩
  · rw [accepted, List.map_append, List.map_map]
    rfl
  · rw [accepted, List.map_append, List.map_map]
    rfl

end Sys2Proof.Machine

open Sys2Proof Sys2Proof.Machine

/-- Settles O6: CLEAR resets the blocks and keeps the command unit's settings and answers; on the link it discards what is
internal; of what stood presented, only the answer and status writer's stays. -/
theorem clearResetsRun : Obligations.ClearResetsRun := by
  intro w s ready kind
  have ran : exec (.clear w) s = .next (s.cleared w).present := by
    rw [← arrive_clear ready kind]
    rfl
  obtain ⟨engine, record, abandoned, answer⟩ := present_idle (s := s.cleared w) ready.line rfl rfl rfl rfl
  obtain ⟨returned, link, requests, conditions⟩ := cleared_host s w
  refine ⟨_, ran, ⟨State.present_strap _, State.present_linkReset _, State.present_timeRef _, State.present_pending _,
    State.present_lastGrant _⟩, ?_⟩
  rw [State.present_core, State.present_acq, State.present_host, State.present_issued]
  obtain ⟨whole, length⟩ := lastTwo_spec (s.core.unit.due ++ (s.core.unit.running.map Running.aborted).toList ++
    [answerTo (pageData w) .done .plain])
  refine ⟨clear_allReset s.core _, rfl, rfl, rfl, rfl, rfl, rfl, rfl, rfl, ⟨_, whole, length.trans (congrArg _ ?_)⟩, ?_, ?_, ?_,
    engine, record, abandoned, answer, rfl, returned, link.trans ready.link, requests, conditions⟩
  · exact congrArg List.length whole.symm
  · show (s.issued.map Issued.discard).map Issued.request = _
    rw [List.map_map]
    exact List.map_congr_left fun i _ => discard_request i
  · show (s.issued.map Issued.discard).map Issued.owner = _
    rw [List.map_map]
    exact List.map_congr_left fun i _ => discard_owner i
  · intro i hi internal
    obtain ⟨j, _, rfl⟩ := List.mem_map.1 hi
    rw [discard_owner] at internal
    exact discard_internal internal

end

section
/-! Completions of the answer writer and of the long commands (R174, R178 to R180, R182, R184). -/

namespace Sys2Proof.Machine

/-! ### Answers written (R174, R184) -/

theorem answerWriteCompletion_core {s : State} {i : Issued} {rest : List Issued} {w : AnswerWrite} (issued : s.issued = i :: rest)
    (owner : i.owner = .answer w) (fresh : i.discarded = false) (r : Completion) :
    ∃ t, exec (.answerWriteCompletion r) s = .next t ∧ s.InternalDone t rest ∧ t.core = s.core.answerCompleted w r := by
  refine ⟨(s.receive r).present, rfl, ?_⟩
  rw [receive_answer issued owner fresh]
  exact ⟨internalDone_setCore s rest _, State.present_core _⟩

/-- A write that carried no answer leaves the writer free to present again. -/
theorem answerCompleted_done_other {k : Core} (running : k.writer.halted = false) {w : AnswerWrite}
    (other : w ≠ .answerBlock true) (lines : Vector Block 8) :
    k.answerCompleted w (.done lines) = k.setUnit { k.unit with awaiting := false } := by
  have goesOn : ¬(k.setUnit { k.unit with awaiting := false }).writer.halted = true := by
    rw [Core.setUnit_writer, running]
    nofun
  unfold Core.answerCompleted
  dsimp only
  rw [if_neg goesOn]
  cases w with
  | statusBlock => rfl
  | answerBlock carries =>
    cases carries with
    | false => rfl
    | true => exact absurd rfl other

/-- A write that carried the oldest answer due makes it the latest and raises DONE. -/
theorem answerCompleted_done_answer {k : Core} (running : k.writer.halted = false) {a : Answer} {rest : List Answer}
    (due : k.unit.due = a :: rest) (lines : Vector Block 8) :
    k.answerCompleted (.answerBlock true) (.done lines) = (k.setUnit { k.unit with
      awaiting := false, due := rest, latest := a, dirty := k.unit.dirty || rest.isEmpty }).raise .done := by
  have goesOn : ¬(k.setUnit { k.unit with awaiting := false }).writer.halted = true := by
    rw [Core.setUnit_writer, running]
    nofun
  unfold Core.answerCompleted
  dsimp only
  rw [if_neg goesOn]
  unfold Core.answerWritten
  rw [Core.setUnit_unit, due]
  rfl

/-! ### A SNAPSHOT goes on (R182) -/

theorem snapshotWriteCompletion_core {s : State} {i : Issued} {rest : List Issued} (issued : s.issued = i :: rest)
    (owner : i.owner = .snapshot) (fresh : i.discarded = false) (r : Completion) :
    ∃ t, exec (.snapshotWriteCompletion r) s = .next t ∧ s.InternalDone t rest ∧ t.core = s.core.snapshotCompleted r := by
  refine ⟨(s.receive r).present, rfl, ?_⟩
  rw [receive_snapshot issued owner fresh]
  exact ⟨internalDone_setCore s rest _, State.present_core _⟩

/-- A snapshot write that completes is counted, and the last one ends the command with its answer. -/
theorem snapshotCompleted_done {k : Core} {tag : Num} {target : SnapshotTarget} {granted completed : Nat}
    (halted : k.writer.halted = false) (running : k.unit.running = some (.snapshot tag target granted completed))
    (lines : Vector Block 8) :
    k.snapshotCompleted (.done lines) =
      if completed + 1 = target.length then k.endRunning (snapshotAnswer tag .done)
      else k.setUnit { k.unit with running := some (.snapshot tag target granted (completed + 1)) } := by
  unfold Core.snapshotCompleted
  rw [if_neg (by rw [halted]; nofun)]
  dsimp only
  unfold Core.snapshotWritten
  rw [running]

/-! ### An APPLY goes on, or its fetch is over (R178 to R180) -/

/-- A completion for a fetch read that abandons no placement changes the blocks behind the link alone. -/
theorem receive_fetch_kept {s : State} {i : Issued} {rest : List Issued} (r : Completion) (issued : s.issued = i :: rest)
    (owner : i.owner = .fetch) (fresh : i.discarded = false)
    (kept : (s.core.fetchCompleted s.pageBase (fetchLines i.request r)).writer.placement = s.core.writer.placement) :
    s.receive r = (s.setIssued rest).setCore (s.core.fetchCompleted s.pageBase (fetchLines i.request r)) := by
  have whole : ¬placementAbandoned s.core (s.core.fetchCompleted s.pageBase (fetchLines i.request r)) = true := by
    unfold placementAbandoned
    rw [kept]
    cases s.core.writer.placement <;> nofun
  unfold State.receive State.completeFor
  rw [issued]
  dsimp only
  rw [fresh, owner]
  exact if_neg whole

theorem fetchReadCompletion_core {s : State} {i : Issued} {rest : List Issued} (r : Completion) (issued : s.issued = i :: rest)
    (owner : i.owner = .fetch) (fresh : i.discarded = false) {k : Core}
    (completed : s.core.fetchCompleted s.pageBase (fetchLines i.request r) = k) (kept : k.writer = s.core.writer) :
    ∃ t, exec (.fetchReadCompletion r) s = .next t ∧ s.InternalDone t rest ∧ t.core = k := by
  subst completed
  refine ⟨(s.receive r).present, rfl, ?_⟩
  rw [receive_fetch_kept r issued owner fresh (congrArg Writer.placement kept)]
  exact ⟨internalDone_setCore s rest _, State.present_core _⟩

theorem receive_failed_iff (f : Fetch) (q : Request) (r : Completion) :
    (f.receive (fetchLines q r)).failed = true ↔ f.failed = true ∨ r = .failed := by
  cases r <;> simp [fetchLines, Fetch.receive]

/-- A fetch is over when every read granted has completed and it has failed or has no read left to present. -/
theorem over_receive_iff (f : Fetch) (q : Request) (r : Completion) (paths : Bool) :
    (f.receive (fetchLines q r)).over paths = true ↔
      f.completed + 1 = f.granted ∧ (f.failed = true ∨ r = .failed ∨ f.granted = if paths then 7 else 3) := by
  have reads : (fetchReads paths).length = if paths then 7 else 3 := by cases paths <;> rfl
  have counted : (f.receive (fetchLines q r)).completed = f.completed + 1 ∧ (f.receive (fetchLines q r)).granted = f.granted := by
    cases r <;> exact ⟨rfl, rfl⟩
  obtain ⟨completed, granted⟩ := counted
  unfold Fetch.over
  rw [Bool.and_eq_true, Bool.or_eq_true, receive_failed_iff, completed, granted, reads, beq_iff_eq, beq_iff_eq, or_assoc]

theorem fetchCompleted_goesOn {k : Core} {tag : Num} {paths : Bool} {f : Fetch} {lines : Option (List Block)}
    (running : k.unit.running = some (.apply tag paths f)) (more : ¬(f.receive lines).over paths = true) (page : Nat) :
    k.fetchCompleted page lines = k.setUnit { k.unit with running := some (.apply tag paths (f.receive lines)) } := by
  unfold Core.fetchCompleted
  rw [running]
  exact if_neg more

theorem fetchCompleted_decides {k : Core} {tag : Num} {paths : Bool} {f : Fetch} {lines : Option (List Block)}
    (running : k.unit.running = some (.apply tag paths f)) (ended : (f.receive lines).over paths = true) (page : Nat) :
    k.fetchCompleted page lines = k.decideApply page tag paths (f.receive lines) := by
  unfold Core.fetchCompleted
  rw [running]
  exact if_pos ended

/-- Why an APPLY whose fetch is over is refused: the first test of R179 that fails, with the answer's result and detail. -/
inductive Core.ApplyRefusal (k : Core) (page : Nat) (f : Fetch) : AnswerResult → AnswerDetail → Prop
  | fetchFailed (failed : f.failed = true) : k.ApplyRefusal page f .fetchFailed .plain
  | settingsChanged (fetched : ¬f.failed = true) (disturbed : k.unit.disturbed = true) :
      k.ApplyRefusal page f .settingsChanged .plain
  | layoutLocked (fetched : ¬f.failed = true) (calm : k.unit.disturbed = false)
      (locked : k.unit.run ≠ .stopped ∧ k.changesLocked (readSettings f.data) = true) :
      k.ApplyRefusal page f .layoutLocked .plain
  | invalidSettings (fetched : ¬f.failed = true) (calm : k.unit.disturbed = false)
      (unlocked : ¬(k.unit.run ≠ .stopped ∧ k.changesLocked (readSettings f.data) = true)) (bad : BadField)
      (first : firstBad page (readSettings f.data) = some bad) : k.ApplyRefusal page f .invalidSettings bad.detail

theorem Core.ApplyRefusal.answered {k : Core} {page : Nat} {f : Fetch} {result : AnswerResult} {detail : AnswerDetail}
    (h : k.ApplyRefusal page f result detail) (tag : Num) (paths : Bool) :
    k.decideApply page tag paths f = k.endRunning (applyAnswer tag result detail) := by
  unfold Core.decideApply
  dsimp only
  cases h with
  | fetchFailed failed => rw [if_pos failed]
  | settingsChanged fetched disturbed => rw [if_neg fetched, if_pos disturbed]
  | layoutLocked fetched calm locked => rw [if_neg fetched, if_neg (by rw [calm]; nofun), if_pos locked]
  | invalidSettings fetched calm unlocked bad first =>
    rw [if_neg fetched, if_neg (by rw [calm]; nofun), if_neg unlocked, first]

end Sys2Proof.Machine

open Sys2Proof Sys2Proof.Machine

/-- Settles O39: the completion frees the writer, and an answer that was carried leaves the answers due. -/
theorem answerIsWritten : Obligations.AnswerIsWritten := by
  intro lines s i rest w issued owner fresh running
  obtain ⟨t, ht, done, core⟩ := answerWriteCompletion_core issued owner fresh (.done lines)
  refine ⟨t, ht, done, fun other => core.trans (answerCompleted_done_other running other lines), ?_⟩
  rintro rfl a due pending
  exact core.trans (answerCompleted_done_answer running pending lines)

/-- Settles O41: a fetch that is not over and a snapshot count their completions; the last write of a snapshot ends it. -/
theorem longCommandsGoOn : Obligations.LongCommandsGoOn := by
  refine ⟨?_, ?_⟩
  · intro r s i rest tag paths f addr len issued owner fresh request running more
    have goesOn := fetchCompleted_goesOn running (mt (over_receive_iff f i.request r paths).1 more) s.pageBase
    obtain ⟨t, ht, done, core⟩ := fetchReadCompletion_core r issued owner fresh goesOn rfl
    refine ⟨t, f.receive (fetchLines i.request r), ht, done, core, ?_⟩
    rw [request]
    cases r with
    | failed => exact ⟨rfl, rfl, rfl, fun _ => ⟨rfl, rfl⟩, nofun⟩
    | done lines =>
      refine ⟨rfl, rfl, rfl, nofun, ?_⟩
      rintro _ ⟨⟩
      exact ⟨rfl, rfl⟩
  · intro lines s i rest tag target granted completed issued owner fresh halted running
    obtain ⟨t, ht, done, core⟩ := snapshotWriteCompletion_core issued owner fresh (.done lines)
    rw [snapshotCompleted_done halted running] at core
    refine ⟨t, ht, done, fun more => core.trans (if_neg ?_), fun last => core.trans (if_pos ?_)⟩
    · cases target <;> exact more
    · cases target <;> exact last

/-- Settles O42: the fetch is over with the data that the last read brings, and the first test that fails is the answer. -/
theorem applyRefusedAtItsEnd : Obligations.ApplyRefusedAtItsEnd := by
  intro r s i rest tag paths f addr len result detail issued owner fresh request running last
  dsimp only
  intro ends tests
  have ended := (over_receive_iff f i.request r paths).2 ⟨last, or_assoc.1 ends⟩
  have failed := receive_failed_iff f i.request r
  have refusal : s.core.ApplyRefusal s.pageBase (f.receive (fetchLines i.request r)) result detail := by
    rw [request] at failed ⊢
    rcases tests with ⟨fails, rfl, rfl⟩ | ⟨fetched, disturbed, rfl, rfl⟩ | ⟨fetched, calm, locked, rfl, rfl⟩ |
      ⟨fetched, calm, unlocked, bad, first, rfl, rfl⟩
    · exact .fetchFailed (failed.2 fails)
    · exact .settingsChanged (mt failed.1 fetched) disturbed
    · cases r with
      | failed => exact absurd (.inr rfl) fetched
      | done lines => exact .layoutLocked (mt failed.1 fetched) calm locked
    · cases r with
      | failed => exact absurd (.inr rfl) fetched
      | done lines => exact .invalidSettings (mt failed.1 fetched) calm unlocked bad first
  exact fetchReadCompletion_core r issued owner fresh
    ((fetchCompleted_decides running ended s.pageBase).trans (refusal.answered tag paths)) rfl

end

section
/-! The step: what it does with the command at the front of the queue. -/

namespace Sys2Proof.Machine

/-- A step on a queue that is not empty is its front command, which sees the queue without itself. -/
theorem step_of_pending_cons {s : State} {c : Instr} {rest : List Instr} (front : s.pending = c :: rest) :
    step s = exec c { s with pending := rest } := by
  rw [step, front]

end Sys2Proof.Machine

open Sys2Proof Sys2Proof.Machine

/-- Settles O1: the queue that a step finds has the command at its front, and the step replaces that queue by its rest. -/
theorem stepRunsFront : Obligations.StepRunsFront := fun c rest s =>
  step_of_pending_cons (s := { s with pending := c :: rest }) rfl

end
